-- ==== Sys2Proof/Word.lean ====
section
/-! DEFINITION. The words of the VS-216 and the names shared by commands and state: ports, slots,
the entry form of a TABLE_WRITE and the twelve operations of a management request. -/

namespace Sys2Proof

/-- A byte of a frame, of a buffer or of a request. -/
abbrev Byte := BitVec 8

/-- A 16-bit field: a label, a length, a LAP word address. -/
abbrev Half := BitVec 16

/-- A control word, a LAP word, a counter. -/
abbrev Word := BitVec 32

/-- The two line ports (00, section 1.1). -/
inductive PortId where
  | a
  | b
  deriving DecidableEq, Repr

/-- The port by which a frame that arrived here is forwarded (R2). -/
def PortId.opposite : PortId → PortId
  | .a => .b
  | .b => .a

/-- The place of a launch slot in the alternation of its pair (R111). -/
inductive Parity where
  | even
  | odd
  deriving DecidableEq, Repr

/-- The other slot of the pair. -/
def Parity.other : Parity → Parity
  | .even => .odd
  | .odd => .even

/-- One of the four launch slots A-EVEN, A-ODD, B-EVEN, B-ODD (00, section 1.4 (9)). -/
structure SlotId where
  port : PortId
  parity : Parity
  deriving DecidableEq, Repr

/-- One value for each line port. -/
structure PerPort (α : Type) where
  a : α
  b : α
  deriving DecidableEq, Repr

/-- One value for each slot of a pair. -/
structure Pair (α : Type) where
  even : α
  odd : α
  deriving DecidableEq, Repr

/-- The entry form of Table 13.4, as carried by TABLE_WRITE: the field codes as written, not yet
judged (R186). Bit 3 of byte 0 belongs to no field. -/
structure EntryForm where
  valid : Bool
  translate : Bool
  applies : BitVec 2
  action : BitVec 3
  order : Byte
  base : Half
  newBase : Half
  channel : Byte
  deriving DecidableEq, Repr

/-- One operation record of a management request, its operands decoded by R186 (Table 13.3). -/
inductive Op where
  | readWord (address : Byte)
  | writeWord (address : Byte) (value : Word)
  | modifyWord (address : Byte) (value mask : Word)
  | tableWrite (index : Byte) (form : EntryForm)
  | tableRead (index : Byte) (clear : Bool)
  | tableInvalidate (first count : Byte)
  | counterRead (id : Byte) (clear : Bool)
  | seqReset (channel : Byte)
  | faultRead (clear : Bool)
  | setNode (number : Byte)
  | echo (data : List Byte)
  | stationReset
  deriving DecidableEq, Repr

end Sys2Proof
end

