-- ==== Sys2Proof/Syntax.lean ====
section
/-! DEFINITION. The commands of the block: one constructor for each row of spec/opcode_table.json. -/

namespace Sys2Proof

/-- The 53 steps of the VS-216, in the table's order but for the last three rows, which stand with
their families. `p` is the port at which the event happens. -/
inductive Instr where
  -- resets and pins (R1, R184)
  | fullReset (powerOnHigh : Bool)
  | resetRelease
  | lrstAssert
  | lrstRelease
  -- the link (R16 to R22)
  | lossOfSignal (p : PortId)
  | signalReturn (p : PortId)
  | rxSeek (p : PortId)
  | rxReady (p : PortId)
  -- reception (R25 to R33)
  | rxIdle (p : PortId)
  | rxCredit (p : PortId) (n : Nat)
  | rxSof (p : PortId)
  | rxDataSymbol (p : PortId) (byte : Byte)
  | rxEof (p : PortId)
  | rxAbort (p : PortId)
  | rxSymbolError (p : PortId)
  -- transmission (R24, R36, R72)
  | txCredit (p : PortId)
  | txSof (p : PortId)
  | txDataSymbol (p : PortId)
  | txEof (p : PortId)
  | txAbort (p : PortId)
  -- the copy engine (R94)
  | copyCompletion
  -- management operations (R129 to R146)
  | readWord (address : Byte)
  | writeWord (address : Byte) (value : Word)
  | modifyWord (address : Byte) (value mask : Word)
  | enableBClear
  | enableBSet
  | tableWrite (index : Byte) (form : EntryForm)
  | tableRead (index : Byte) (clear : Bool)
  | tableInvalidate (first count : Byte)
  | counterRead (id : Byte) (clear : Bool)
  | seqReset (channel : Byte)
  | faultRead (clear : Bool)
  | setNode (number : Byte)
  | echo (data : List Byte)
  | stationReset
  | batchEnd
  | stationResetApplied
  -- the local access port (R171 to R187)
  | localReset (value : Word)
  | localCauseWrite (value : Word)
  | localEnableWrite (value : Word)
  | noticeTake
  | freeReturn (value : Word)
  | bufSelectWrite (value : Word)
  | bufDataRead (word : Byte)
  | slotHeaderWrite (slot : SlotId) (second : Bool) (value : Word)
  | slotSelectWrite (value : Word)
  | slotDataWrite (word : Byte) (value : Word)
  | slotHandover (value : Word)
  | slotRecall (value : Word)
  | lapBadCommand (code : Byte)
  | lapReadOnlyWrite (address : Half) (value : Word)
  | transactionBegin
  | transactionEnd
  deriving DecidableEq, Repr

end Sys2Proof
end

