-- ==== Sys2Proof/Decode.lean ====
section
/-! DEFINITION. No row of spec/opcode_table.json gives bits: its commands are events, not words of an
instruction memory, so no table word spells a command. -/

namespace Sys2Proof

/-- The command that a word of the table's bits spells: none, since the table gives no row any bits. -/
def decodeTableWord (_nbits _w : Nat) : Option Instr := none

end Sys2Proof
end

