-- ==== Sys2Proof/Config.lean ====
section
/-! DEFINITION. The values the spec leaves open, as constants with no body: a claim about the model
holds whatever they are. Each is applied to `Device.choices`, which every draw advances, so two draws
are unrelated. -/

namespace Sys2Proof

/-- Of two parts of one event that the spec leaves unordered (R57, R160; R69 with R70), whether the
first-named is taken first. Log 5. -/
opaque Config.firstPartFirst : Nat → Bool

/-- How many bytes the copy engine has moved when a local reset stops the copy in progress (R93,
R106); the model bounds it by CAPTURED_LENGTH. Log 6. -/
opaque Config.bytesMoved : Nat → Nat

end Sys2Proof
end

