-- ==== Sys2Proof/Machine/State.lean ====
section
/-! DEFINITION. The state of the VS-216, block by block, as plain data; its value after a full reset;
and the (empty) kinds of stop. -/

namespace Sys2Proof.Machine

/-! ## Stops -/

/-- The faults that stop the model. There are none: the spec gives the part no event that stops it, so
no command answers a fault and every line error is counted, recorded or signalled instead (safe). -/
inductive Fault
  deriving DecidableEq, Repr

/-- The refusals of the model. -/
inductive Refusal where
  /-- Raised only by an arm of `exec` that has no meaning yet; safe. No arm is in that case. -/
  | notModelled (mnemonic : String)
  deriving DecidableEq, Repr

/-! ## Frames (01) -/

/-- The 8-byte header of a frame (Table 13.1), every bit of it. -/
structure Header where
  kind : BitVec 4
  seq : Bool
  spareSeq : BitVec 3
  spareHops : BitVec 2
  hops : BitVec 6
  label : Half
  length : Half
  source : Byte
  tag : Byte
  deriving DecidableEq, Repr

/-- A frame without its check trailer, which is computed when the frame is sent (R14). -/
structure Frame where
  header : Header
  payload : List Byte
  deriving DecidableEq, Repr

/-! ## Line ports (02) -/

/-- R16. -/
inductive LinkState where
  | offline
  | seeking
  | online
  deriving DecidableEq, Repr

/-- A symbol on a transmit pair (Table 2.5), a data symbol included. -/
inductive LineSymbol where
  | idle
  | seek
  | ready
  | credit (n : Nat)
  | sof
  | data (byte : Byte)
  | eof
  | abort
  deriving DecidableEq, Repr

/-- Whether, and as what, a frame in reception has been judged before its end (R29, R30). -/
inductive Judgement where
  | unjudged
  | formatError
  | creditViolation
  deriving DecidableEq, Repr

/-- The receive context inside a frame (02, section 3.5). The check is kept as the running register
over all bytes but the last four received, and those four (R13, R31). -/
structure RxFrame where
  count : Nat
  damaged : Bool
  judged : Judgement
  charge : Option Nat
  headerBytes : List Byte
  header : Option Header
  stored : List Byte
  check : Word
  lastFour : List Byte
  deriving DecidableEq, Repr

/-- A resident frame (R34). `key` is the model's own name for it (log 16). -/
structure Resident where
  key : Nat
  frame : Frame
  blocks : Nat
  forwardUse : Bool
  captureUse : Bool
  deriving DecidableEq, Repr

/-- The transmitter (R36). Inside a frame: the bytes still to send, header, payload and trailer, and
how many have been sent. Closing a frame with ABORT: the header bytes still owed, and whether the
closing READY of R17 is owed after the ABORT (log 8). -/
inductive Transmitter where
  | between
  | sending (rest : List Byte) (sent : Nat)
  | aborting (owed : List Byte) (closingReady : Bool)
  deriving DecidableEq, Repr

/-- The state of one line port (Table 3.1). -/
structure Port where
  link : LinkState
  readySent : Bool
  errorRun : Nat
  rx : Option RxFrame
  residents : List Resident
  held : Nat
  outstanding : Nat
  unannounced : Nat
  tx : Transmitter
  lastSent : List LineSymbol
  deriving DecidableEq, Repr

/-! ## Steering table (03) -/

/-- R39: the directions in which an entry matches. -/
inductive Applies where
  | down
  | up
  | both
  deriving DecidableEq, Repr

/-- R45. -/
inductive Action where
  | forward
  | capture
  | copy
  | discard
  deriving DecidableEq, Repr

/-- One steering entry (Table 4.1). -/
structure Entry where
  valid : Bool
  base : Half
  order : Fin 17
  applies : Applies
  action : Action
  translate : Bool
  newBase : Half
  channel : Fin 8
  hits : Word
  deriving DecidableEq, Repr

/-- The table and DEFAULT_ACTION (R49); a default is FORWARD or DISCARD. -/
structure Table where
  entries : Vector Entry 64
  discardDown : Bool
  discardUp : Bool
  deriving DecidableEq, Repr

/-! ## Egress (04) -/

/-- A forward reference (R63). -/
structure ForwardRef where
  key : Nat
  blocks : Nat
  hops : BitVec 6
  label : Half
  next : Option Byte
  deriving DecidableEq, Repr

/-- What an origin entry holds (R66): a composed frame, or nothing yet for an ALERT (R68). -/
inductive OriginBody where
  | reply (frame : Frame)
  | enumRet (frame : Frame) (renewed : Bool)
  | alert
  deriving DecidableEq, Repr

/-- An entry of the origin list with its chosen mark (R72). -/
structure OriginEntry where
  body : OriginBody
  chosen : Bool
  deriving DecidableEq, Repr

/-- The kinds of origin entry. -/
inductive OriginKind where
  | reply
  | enumRet
  | alert
  deriving DecidableEq, Repr

/-- The frame an arbiter has picked, by class R, F or I (04, Table 5.1). An R keeps the content it had
when it was chosen (R67, R68). -/
inductive ChosenFrame where
  | origin (kind : OriginKind) (frame : Frame)
  | forward (ref : ForwardRef)
  | launch (parity : Parity)
  deriving DecidableEq, Repr

/-- The chosen frame and its phase: CREDIT_WAIT, or SENDING. -/
structure Chosen where
  frame : ChosenFrame
  sending : Bool
  deriving DecidableEq, Repr

/-- One egress arbiter, less the origin list. -/
structure Egress where
  queue : List ForwardRef
  share : Nat
  chosen : Option Chosen
  deriving DecidableEq, Repr

/-- The control word EGRESS_CTL (R73). -/
structure EgressCtl where
  injectShare : BitVec 4
  injectHops : BitVec 6
  deriving DecidableEq, Repr

/-! ## Capture unit (05) -/

/-- One capture channel: configuration (R79) and state (R80). -/
structure Channel where
  enabled : Bool
  seqCheck : Bool
  quota : BitVec 6
  clip : BitVec 11
  expect : Bool
  held : Nat
  starved : Bool
  deriving DecidableEq, Repr

/-- R88. -/
inductive BufferState where
  | pooled
  | filling
  | posted
  | taken
  deriving DecidableEq, Repr

/-- One pool buffer: its state (`taken` is the spec's LOCAL) and its remembered channel. Its bytes stand
in `Capture.mem`. -/
structure Buffer where
  state : BufferState
  channel : Fin 8
  deriving DecidableEq, Repr

/-- A work item (R86). -/
structure WorkItem where
  buffer : Fin 32
  channel : Fin 8
  port : PortId
  entry : Fin 64
  label : Half
  source : Byte
  seq : Bool
  fullLength : Nat
  capturedLength : Nat
  clipped : Bool
  key : Nat
  deriving DecidableEq, Repr

/-- A delivery notice (R97). -/
structure Notice where
  buffer : Fin 32
  channel : Fin 8
  port : PortId
  entry : Fin 64
  label : Half
  source : Byte
  seq : Bool
  fullLength : Nat
  capturedLength : Nat
  clipped : Bool
  deriving DecidableEq, Repr

/-- The capture unit (Table 6.1). `mem` holds the buffer bytes: byte i of buffer b at 1024 b + i. -/
structure Capture where
  channels : Vector Channel 8
  buffers : Vector Buffer 32
  mem : List Host.Cell
  free : List (Fin 32)
  work : List WorkItem
  delivery : List Notice
  deriving DecidableEq, Repr

/-! ## Launch unit (06) -/

/-- R108 to R115. `free` is the spec's owner LOCAL. -/
inductive Owner where
  | free
  | waiting
  | committed
  deriving DecidableEq, Repr

/-- R114. -/
inductive SeqMode where
  | auto
  | repeated
  deriving DecidableEq, Repr

/-- Table 7.1. -/
inductive SlotStatus where
  | none
  | sent
  | linkDown
  | unnumbered
  | badLength
  | recalled
  deriving DecidableEq, Repr

/-- The header values fixed when a slot is offered (R113). -/
structure OfferedHeader where
  seq : Bool
  hops : BitVec 6
  source : Byte
  deriving DecidableEq, Repr

/-- One launch slot; its payload stands in `Launch.mem`. -/
structure Slot where
  owner : Owner
  label : Half
  length : Half
  seqMode : SeqMode
  status : SlotStatus
  offered : Option OfferedHeader
  deriving DecidableEq, Repr

/-- The launch unit (Table 7.1). `mem` holds the payload bytes: byte i of the slot with identifier k at
1024 k + i. -/
structure Launch where
  slots : PerPort (Pair Slot)
  mem : List Host.Cell
  next : PerPort Parity
  txSeq : PerPort Bool
  deriving DecidableEq, Repr

/-! ## Management agent (07) -/

/-- Table 8.2 and section 13.2. -/
inductive OpStatus where
  | ok
  | badAddress
  | readOnly
  | badOperand
  | badIndex
  | badEntry
  | notRun
  deriving DecidableEq, Repr

/-- A result record (R133). -/
structure OpResult where
  code : Byte
  status : OpStatus
  data : List Byte
  deriving DecidableEq, Repr

/-- A request copy (07, Table 8.1 and R122). -/
structure RequestCopy where
  tag : Byte
  broadcast : Bool
  length : Nat
  payload : List Byte
  deriving DecidableEq, Repr

/-- The running batch (R129, R130): the operations still to run, the results so far in list order, and
whether an operation has failed. -/
structure Batch where
  waiting : List Op
  results : List OpResult
  failed : Bool
  deriving DecidableEq, Repr

/-- A reply as the replay store keeps it (R125). -/
structure Reply where
  label : Half
  source : Byte
  tag : Byte
  payload : List Byte
  deriving DecidableEq, Repr

/-- The management agent (Table 8.1). `resetDue` stands between the end of a batch whose STATION_RESET
ran and the station reset itself, which is the agent's next event (R145; log 20). -/
structure Agent where
  queue : List RequestCopy
  batch : Option Batch
  lastTag : Byte
  replay : Option Reply
  node : BitVec 6
  resetDue : Bool
  deriving DecidableEq, Repr

/-! ## Statistics and fault unit (09) -/

/-- Table 10.3, in the order of Table 13.7. -/
inductive FaultKind where
  | crc
  | format
  | creditViolation
  | misrouted
  | hopExpired
  | linkDrop
  | creditOverrun
  | egressDown
  | noBuffer
  | returnReject
  | agentOverrun
  | numberExhausted
  deriving DecidableEq, Repr

/-- The frame fields of a fault report (Table 10.4). -/
structure FrameFields where
  kind : BitVec 4
  label : Half
  source : Byte
  hops : BitVec 6
  length : Half
  deriving DecidableEq, Repr

/-- A fault report, and so the content of a FILLED record (R163). -/
structure FaultReport where
  kind : FaultKind
  port : Option PortId
  frame : Option FrameFields
  channel : Option (Fin 8)
  buffer : Option Word
  deriving DecidableEq, Repr

/-- The statistics and fault unit (Table 10.1). The counters stand under the ids of Table 13.9; the
record is EMPTY when `none`. -/
structure Stats where
  counters : Vector Word 82
  record : Option FaultReport
  overflow : Byte
  mask : BitVec 12
  alertEnable : Bool
  alertPending : Bool
  deriving DecidableEq, Repr

/-! ## Local access port (10) -/

/-- The two transactions of R171. -/
inductive LapCommand where
  | read
  | write
  deriving DecidableEq, Repr

/-- The transaction context (Table 11.1): idle; opened by LCS with no word event yet; inside its data
words, with the address of the next word and the bit position in it; or ignored up to LCS high (R171,
R184). The commands of the table pass whole words, so the position is 0 between commands (log 18). -/
inductive LapContext where
  | idle
  | opened
  | words (command : LapCommand) (address : Half) (position : Fin 32)
  | ignored
  deriving DecidableEq, Repr

/-- The local access port (Table 11.1). The cause NOTICE is the level of the delivery queue (R175), so
only the four edges stand here; `enables` has a bit per cause, as LOCAL_ENABLE. `latch` is EMPTY when
`none`; `ldo` is the word the last LAP read took. -/
structure Lap where
  context : LapContext
  launchDone : Bool
  starvation : Bool
  accessFault : Bool
  nodeChanged : Bool
  enables : BitVec 5
  latch : Option Notice
  bufSelect : Fin 32
  slotSelect : SlotId
  ldo : Word
  deriving DecidableEq, Repr

/-- The levels of the input pins: RESET, LRST and LCS low, and signal on each receive pair. -/
structure Pins where
  resetLow : Bool
  lrstLow : Bool
  lcsLow : Bool
  signal : PerPort Bool
  deriving DecidableEq, Repr

/-- The whole part. `choices` counts the free values drawn (Config); it is the model's own. -/
structure Device where
  pins : Pins
  ports : PerPort Port
  enableB : Bool
  egress : PerPort Egress
  origin : List OriginEntry
  egressCtl : EgressCtl
  table : Table
  capture : Capture
  launch : Launch
  agent : Agent
  stats : Stats
  lap : Lap
  choices : Nat
  deriving DecidableEq, Repr

/-- The machine: the part, and the commands waiting for it, first in first out. -/
structure State where
  dev : Device
  pending : List Instr
  deriving DecidableEq, Repr

/-! ## Values after a full reset -/

/-- R38. -/
def Port.reset : Port :=
  { link := .seeking, readySent := false, errorRun := 0, rx := none, residents := []
    held := 0, outstanding := 0, unannounced := 40, tx := .between, lastSent := [] }

/-- R56. -/
def Entry.reset : Entry :=
  { valid := false, base := 0, order := 0, applies := .both, action := .forward
    translate := false, newBase := 0, channel := 0, hits := 0 }

/-- R56. -/
def Table.reset : Table :=
  { entries := Vector.replicate 64 Entry.reset, discardDown := false, discardUp := false }

/-- R78. -/
def Egress.reset : Egress := { queue := [], share := 0, chosen := none }

/-- R73. -/
def EgressCtl.reset : EgressCtl := { injectShare := 4, injectHops := 63 }

/-- R79, R104. -/
def Channel.reset : Channel :=
  { enabled := false, seqCheck := false, quota := 8, clip := 1024
    expect := false, held := 0, starved := false }

/-- R104. -/
def Capture.reset : Capture :=
  { channels := Vector.replicate 8 Channel.reset
    buffers := Vector.replicate 32 { state := .pooled, channel := 0 }
    mem := [], free := List.finRange 32, work := [], delivery := [] }

/-- R120. -/
def Slot.reset : Slot :=
  { owner := .free, label := 0, length := 0, seqMode := .auto, status := .none, offered := none }

/-- R120. -/
def Launch.reset : Launch :=
  { slots := ⟨⟨Slot.reset, Slot.reset⟩, ⟨Slot.reset, Slot.reset⟩⟩, mem := []
    next := ⟨.even, .even⟩, txSeq := ⟨false, false⟩ }

/-- R147. -/
def Agent.reset : Agent :=
  { queue := [], batch := none, lastTag := 0, replay := none, node := 0, resetDue := false }

/-- R159, R161, R165, R170. FAULT_MASK is F6FH: all on but HOP_EXPIRED and EGRESS_DOWN. -/
def Stats.reset : Stats :=
  { counters := Vector.replicate 82 0, record := none, overflow := 0, mask := 0xF6F
    alertEnable := false, alertPending := false }

/-- R185; `ldo` by log 14. -/
def Lap.reset : Lap :=
  { context := .idle, launchDone := false, starvation := false, accessFault := false
    nodeChanged := false, enables := 0, latch := none, bufSelect := 0
    slotSelect := ⟨.a, .even⟩, ldo := 0 }

/-- The input pins at a power-on with RESET already high (R1; log 12). -/
def Pins.reset : Pins :=
  { resetLow := false, lrstLow := false, lcsLow := false, signal := ⟨true, true⟩ }

/-- Every block at its full-reset value. -/
def Device.reset : Device :=
  { pins := Pins.reset, ports := ⟨Port.reset, Port.reset⟩, enableB := true
    egress := ⟨Egress.reset, Egress.reset⟩, origin := [], egressCtl := EgressCtl.reset
    table := Table.reset, capture := Capture.reset, launch := Launch.reset
    agent := Agent.reset, stats := Stats.reset, lap := Lap.reset, choices := 0 }

/-- The machine right after a full reset whose hold has ended, with no command waiting. -/
def State.reset : State := { dev := Device.reset, pending := [] }

end Sys2Proof.Machine
end

