-- ==== Sys2Proof/Machine/Ops.lean ====
section
/-! DEFINITION. The operations the blocks share: per-port access, the byte memories, the outcome of a
command, counters and fault reports, unordered parts, and the credit account of a port. -/

namespace Sys2Proof

/-! ## Values kept once per port and once per slot of a pair -/

def PerPort.get {α : Type} (x : PerPort α) : PortId → α
  | .a => x.a
  | .b => x.b

def PerPort.set {α : Type} (x : PerPort α) (p : PortId) (v : α) : PerPort α :=
  match p with
  | .a => { x with a := v }
  | .b => { x with b := v }

def Pair.get {α : Type} (x : Pair α) : Parity → α
  | .even => x.even
  | .odd => x.odd

def Pair.set {α : Type} (x : Pair α) (k : Parity) (v : α) : Pair α :=
  match k with
  | .even => { x with even := v }
  | .odd => { x with odd := v }

namespace Machine

/-! ## Byte memories

A memory is a list of (address, byte) pairs in canonical form: addresses rising, no byte 0. An
unlisted address reads as 0, the value of every buffer and slot byte after a full reset (R104, R120). -/

/-- The canonical form. -/
abbrev Memory.wf (m : List Host.Cell) : Prop :=
  m.Pairwise (fun x y => x.1 < y.1) ∧ ∀ c ∈ m, c.2 ≠ 0

def Memory.read : List Host.Cell → Nat → Byte
  | [], _ => 0
  | (k, v) :: m, a => if k = a then v else Memory.read m a

def Memory.write : List Host.Cell → Nat → Byte → List Host.Cell
  | [], a, v => if v = 0 then [] else [(a, v)]
  | (k, w) :: m, a, v =>
    if a < k then (if v = 0 then (k, w) :: m else (a, v) :: (k, w) :: m)
    else if a = k then (if v = 0 then m else (a, v) :: m)
    else (k, w) :: Memory.write m a v

/-- The bytes `bs` written from address `a` upward. -/
def Memory.writeBytes (m : List Host.Cell) (a : Nat) : List Byte → List Host.Cell
  | [] => m
  | b :: bs => Memory.writeBytes (Memory.write m a b) (a + 1) bs

/-- The `n` bytes from address `a` upward. -/
def Memory.readBytes (m : List Host.Cell) (a n : Nat) : List Byte :=
  (List.range n).map fun i => Memory.read m (a + i)

/-- Where the bytes of a pool buffer begin. -/
def bufferBase (b : Fin 32) : Nat := 1024 * b.val

/-- The slot identifiers of section 13.6: 0 A-EVEN, 1 A-ODD, 2 B-EVEN, 3 B-ODD. -/
def slotNumber : SlotId → Nat
  | ⟨.a, .even⟩ => 0
  | ⟨.a, .odd⟩ => 1
  | ⟨.b, .even⟩ => 2
  | ⟨.b, .odd⟩ => 3

/-- Where the payload bytes of a launch slot begin. -/
def slotBase (k : SlotId) : Nat := 1024 * slotNumber k

/-! ## The outcome of a command -/

/-- A command whose event changes the part by `f`; the command queue is not the part's. -/
def onDevice (f : Device → Device) (s : State) : Host.Outcome State Fault Refusal :=
  .next { s with dev := f s.dev }

/-- R1: while RESET is low the part takes no event. -/
def unlessHeld (f : Device → Device) (d : Device) : Device :=
  if d.pins.resetLow then d else f d

/-- Two parts of one event that the spec leaves unordered, taken in an order that a free value picks
(R57, R160; log 5). -/
def eitherOrder (f g : Device → Device) (d : Device) : Device :=
  let d' := { d with choices := d.choices + 1 }
  if Config.firstPartFirst d.choices then g (f d') else f (g d')

/-! ## Access to the blocks -/

def Device.port (d : Device) (p : PortId) : Port := d.ports.get p

def Device.onPort (p : PortId) (f : Port → Port) (d : Device) : Device :=
  { d with ports := d.ports.set p (f (d.ports.get p)) }

def Device.arbiter (d : Device) (p : PortId) : Egress := d.egress.get p

def Device.onArbiter (p : PortId) (f : Egress → Egress) (d : Device) : Device :=
  { d with egress := d.egress.set p (f (d.egress.get p)) }

def Device.slot (d : Device) (k : SlotId) : Slot := (d.launch.slots.get k.port).get k.parity

def Device.onSlot (k : SlotId) (f : Slot → Slot) (d : Device) : Device :=
  { d with launch := { d.launch with
      slots := d.launch.slots.set k.port ((d.launch.slots.get k.port).set k.parity (f (d.slot k))) } }

def Device.channel (d : Device) (c : Fin 8) : Channel := d.capture.channels[c]

def Device.onChannel (c : Fin 8) (f : Channel → Channel) (d : Device) : Device :=
  { d with capture := { d.capture with
      channels := d.capture.channels.set c (f (d.channel c)) } }

def Device.buffer (d : Device) (b : Fin 32) : Buffer := d.capture.buffers[b]

def Device.onBuffer (b : Fin 32) (f : Buffer → Buffer) (d : Device) : Device :=
  { d with capture := { d.capture with
      buffers := d.capture.buffers.set b (f (d.buffer b)) } }

/-- R175: each edge cause stays set until cleared. -/
def Device.setLaunchDone (d : Device) : Device := { d with lap := { d.lap with launchDone := true } }
def Device.setStarvation (d : Device) : Device := { d with lap := { d.lap with starvation := true } }
def Device.setAccessFault (d : Device) : Device := { d with lap := { d.lap with accessFault := true } }
def Device.setNodeChanged (d : Device) : Device := { d with lap := { d.lap with nodeChanged := true } }

/-! ## Counters (Table 10.2, ids of Table 13.9) -/

inductive PortCounter where
  | framesIn
  | crcErr
  | formatErr
  | abortedIn
  | creditViolation
  | misrouted
  | hopExpired
  | tableDiscards
  | defaultHits
  | forwardedOut
  | egressDropped
  | linkDrops
  | creditOverrun
  deriving DecidableEq, Repr

inductive ChannelCounter where
  | captured
  | clipped
  | noBuffer
  | quotaDrop
  | repeatDrop
  | disabledDrop
  deriving DecidableEq, Repr

inductive CounterId where
  | port (p : PortId) (c : PortCounter)
  | channel (ch : Fin 8) (c : ChannelCounter)
  | requests
  | replayed
  | overrun
  | malformed
  | broadcasts
  | launched
  | launchFailed
  | returnRejects
  deriving DecidableEq, Repr

def PortCounter.place : PortCounter → Fin 13
  | .framesIn => 0
  | .crcErr => 1
  | .formatErr => 2
  | .abortedIn => 3
  | .creditViolation => 4
  | .misrouted => 5
  | .hopExpired => 6
  | .tableDiscards => 7
  | .defaultHits => 8
  | .forwardedOut => 9
  | .egressDropped => 10
  | .linkDrops => 11
  | .creditOverrun => 12

def ChannelCounter.place : ChannelCounter → Fin 6
  | .captured => 0
  | .clipped => 1
  | .noBuffer => 2
  | .quotaDrop => 3
  | .repeatDrop => 4
  | .disabledDrop => 5

/-- The counter's id, 0..81. -/
def CounterId.id : CounterId → Fin 82
  | .port .a c => ⟨c.place.val, by omega⟩
  | .port .b c => ⟨13 + c.place.val, by omega⟩
  | .channel ch c => ⟨26 + 6 * ch.val + c.place.val, by omega⟩
  | .requests => 74
  | .replayed => 75
  | .overrun => 76
  | .malformed => 77
  | .broadcasts => 78
  | .launched => 79
  | .launchFailed => 80
  | .returnRejects => 81

/-- R157, R44: one more, but never past 4294967295. -/
def saturatingSucc (w : Word) : Word := if w = BitVec.allOnes 32 then w else w + 1

def Device.counter (d : Device) (c : CounterId) : Word := d.stats.counters[c.id]

/-- R157: the counter rises by one. -/
def Device.count (c : CounterId) (d : Device) : Device :=
  { d with stats := { d.stats with
      counters := d.stats.counters.set c.id (saturatingSucc (d.counter c)) } }

def Device.countPort (p : PortId) (c : PortCounter) (d : Device) : Device := d.count (.port p c)

def Device.countChannel (ch : Fin 8) (c : ChannelCounter) (d : Device) : Device :=
  d.count (.channel ch c)

/-! ## Fault reports and alerts (09) -/

/-- The place of a kind in FAULT_MASK (Table 13.7); its code is one more. -/
def FaultKind.bit : FaultKind → Nat
  | .crc => 0
  | .format => 1
  | .creditViolation => 2
  | .misrouted => 3
  | .hopExpired => 4
  | .linkDrop => 5
  | .creditOverrun => 6
  | .egressDown => 7
  | .noBuffer => 8
  | .returnReject => 9
  | .agentOverrun => 10
  | .numberExhausted => 11

def OriginBody.kind : OriginBody → OriginKind
  | .reply _ => .reply
  | .enumRet _ _ => .enumRet
  | .alert => .alert

def Device.hasOrigin (d : Device) (k : OriginKind) : Bool := d.origin.any (·.body.kind = k)

/-- R66: an entry joins the origin list at its tail. -/
def Device.placeOrigin (b : OriginBody) (d : Device) : Device :=
  { d with origin := d.origin ++ [{ body := b, chosen := false }] }

def Device.setAlertPending (v : Bool) (d : Device) : Device :=
  { d with stats := { d.stats with alertPending := v } }

/-- R167: the pending flag is set, and an ALERT entry is placed unless the list holds one. -/
def Device.raiseAlert (d : Device) : Device :=
  let d := d.setAlertPending true
  if d.hasOrigin .alert then d else d.placeOrigin .alert

/-- R160, R162: an enabled report fills an empty record, raising an alert if ALERT_CTL is on, or adds
to OVERFLOW, which stays at 255. -/
def Device.report (r : FaultReport) (d : Device) : Device :=
  if d.stats.mask.getLsbD r.kind.bit then
    match d.stats.record with
    | none =>
      let d := { d with stats := { d.stats with record := some r } }
      if d.stats.alertEnable then d.raiseAlert else d
    | some _ =>
      { d with stats := { d.stats with
          overflow := if d.stats.overflow = 255 then 255 else d.stats.overflow + 1 } }
  else d

/-- The frame fields of a report: the header as it arrived (R163). -/
def Header.fields (h : Header) : FrameFields :=
  { kind := h.kind, label := h.label, source := h.source, hops := h.hops, length := h.length }

/-- A report that names a port and, where the header is known, the frame (Table 10.5). -/
def portFault (k : FaultKind) (p : PortId) (h : Option Header) : FaultReport :=
  { kind := k, port := some p, frame := h.map Header.fields, channel := none, buffer := none }

/-- A fault counted on a port under the counter of its own name, and recorded with that port. -/
def Device.portError (c : PortCounter) (k : FaultKind) (p : PortId) (h : Option Header)
    (d : Device) : Device :=
  (d.countPort p c).report (portFault k p h)

def OriginEntry.waitingAlert (e : OriginEntry) : Bool := e.body.kind = .alert && !e.chosen

/-- R68, R168 (3): an unchosen ALERT entry is withdrawn and the pending flag cleared. -/
def Device.withdrawAlert (d : Device) : Device :=
  if d.origin.any OriginEntry.waitingAlert then
    { d with origin := d.origin.filter (fun e => !e.waitingAlert)
             stats := { d.stats with alertPending := false } }
  else d

/-- R164: the record becomes EMPTY with OVERFLOW 0, which withdraws an unchosen ALERT. -/
def Device.emptyRecord (d : Device) : Device :=
  Device.withdrawAlert { d with stats := { d.stats with record := none, overflow := 0 } }

/-! ## The credit account of a port (02, sections 3.4 to 3.6) -/

/-- R12. -/
def blockCount (length : Nat) : Nat := (12 + length + 63) / 64

def Resident.inUse (r : Resident) : Bool := r.forwardUse || r.captureUse

def blocksOf (rs : List Resident) : Nat := (rs.map Resident.blocks).sum

def RxFrame.charged (f : RxFrame) : Nat := f.charge.getD 0

/-- The storage blocks charged to the frame in reception. -/
def Port.charged (P : Port) : Nat :=
  match P.rx with
  | none => 0
  | some f => f.charged

/-- R23: the occupied storage blocks. -/
def Port.occupied (P : Port) : Nat := P.charged + blocksOf P.residents

/-- R34: every resident frame without a use is released, its blocks going to unannounced. -/
def Port.release (P : Port) : Port :=
  { P with
    residents := P.residents.filter Resident.inUse
    unannounced := P.unannounced + blocksOf (P.residents.filter fun r => !r.inUse) }

def endForwardOf (key : Nat) (r : Resident) : Resident :=
  if r.key = key then { r with forwardUse := false } else r

def endCaptureOf (key : Nat) (r : Resident) : Resident :=
  if r.key = key then { r with captureUse := false } else r

def beginForwardOf (key : Nat) (r : Resident) : Resident :=
  if r.key = key then { r with forwardUse := true } else r

def beginCaptureOf (key : Nat) (r : Resident) : Resident :=
  if r.key = key then { r with captureUse := true } else r

def Port.mapResidents (f : Resident → Resident) (P : Port) : Port :=
  { P with residents := P.residents.map f }

/-- R34: the end of a forward use, which releases the frame if it has no capture use. -/
def Port.endForward (key : Nat) (P : Port) : Port := (P.mapResidents (endForwardOf key)).release

/-- R34, R94 (5): the end of a capture use. -/
def Port.endCapture (key : Nat) (P : Port) : Port := (P.mapResidents (endCaptureOf key)).release

/-- R30, R33: outstanding is lowered by `n` but not below 0, and what it lost is unannounced again. -/
def Port.giveBack (n : Nat) (P : Port) : Port :=
  { P with outstanding := P.outstanding - min n P.outstanding
           unannounced := P.unannounced + min n P.outstanding }

/-- The frame in reception goes: a charge is released, and the receiver stands between frames. -/
def Port.dropReception (P : Port) : Port :=
  { P with rx := none, unannounced := P.unannounced + P.charged }

/-- R20 steps (2), (3), (4) and (6). -/
def Port.closeAccount (P : Port) : Port :=
  let P := P.dropReception
  { P with held := 0, outstanding := 0, unannounced := P.unannounced + P.outstanding, errorRun := 0 }

/-- A key no resident frame of the port bears (log 16). -/
def Port.freshKey (P : Port) : Nat := (P.residents.map Resident.key).foldl max 0 + 1

def Port.findResident (key : Nat) (P : Port) : Option Resident :=
  P.residents.find? fun r => r.key = key

def Port.online (P : Port) : Bool := P.link = .online

end Machine
end Sys2Proof
end

