-- ==== Sys2Proof/Machine/Operands.lean ====
section
/-! DEFINITION. The layouts of chapter 13: frame header and check trailer, operation records, reply and
fault forms, the control space and the LAP word map. -/

namespace Sys2Proof.Machine

/-! ## Bytes, most significant first (section 1.4 (2)) -/

def halfBytes (h : Half) : List Byte := [h.extractLsb' 8 8, h.extractLsb' 0 8]

def wordBytes (w : Word) : List Byte :=
  [w.extractLsb' 24 8, w.extractLsb' 16 8, w.extractLsb' 8 8, w.extractLsb' 0 8]

def halfOf (hi lo : Byte) : Half := hi ++ lo

def wordOf (b3 b2 b1 b0 : Byte) : Word := b3 ++ b2 ++ b1 ++ b0

def bit (b : Bool) : BitVec 1 := BitVec.ofBool b

/-- The value `v` placed with its bit 0 at bit `at_` of a word. -/
def place {w : Nat} (v : BitVec w) (at_ : Nat) : Word := v.setWidth 32 <<< at_

/-! ## The frame header (Table 13.1) and its checks (R5 to R10) -/

def encodeHeader (h : Header) : List Byte :=
  [h.kind ++ bit h.seq ++ h.spareSeq, h.spareHops ++ h.hops]
    ++ halfBytes h.label ++ halfBytes h.length ++ [h.source, h.tag]

/-- The header of eight bytes; `none` of any other number. -/
def decodeHeader : List Byte → Option Header
  | [b0, b1, b2, b3, b4, b5, b6, b7] =>
    some { kind := b0.extractLsb' 4 4, seq := b0.getLsbD 3, spareSeq := b0.extractLsb' 0 3
           spareHops := b1.extractLsb' 6 2, hops := b1.extractLsb' 0 6
           label := halfOf b2 b3, length := halfOf b4 b5, source := b6, tag := b7 }
  | _ => none

/-- Table 2.1. -/
inductive FrameKind where
  | data
  | mgmtReq
  | mgmtRsp
  | enum
  | enumRet
  | alert
  deriving DecidableEq, Repr

/-- Table 13.2. -/
def FrameKind.code : FrameKind → BitVec 4
  | .data => 1
  | .mgmtReq => 2
  | .mgmtRsp => 3
  | .enum => 4
  | .enumRet => 5
  | .alert => 6

/-- R5: the kind a code names, if any. -/
def frameKind (code : BitVec 4) : Option FrameKind :=
  match code.toNat with
  | 1 => some .data
  | 2 => some .mgmtReq
  | 3 => some .mgmtRsp
  | 4 => some .enum
  | 5 => some .enumRet
  | 6 => some .alert
  | _ => none

/-- R29 (2): whether the header passes the checks of R5, R6, R8, R9 and R10. -/
def Header.wellFormed (h : Header) : Bool :=
  (frameKind h.kind).isSome && h.spareSeq = 0 && h.spareHops = 0
    && (h.kind ≠ FrameKind.mgmtReq.code || h.label.extractLsb' 6 10 = 0)
    && h.length.toNat ≤ 1024 && h.source.toNat ≤ 62

/-- R12, of a received frame. -/
def Header.blocks (h : Header) : Nat := blockCount h.length.toNat

/-- The header of a frame the part composes: spare bits zero (R6). -/
def composeHeader (k : FrameKind) (seq : Bool) (hops : BitVec 6) (label length : Half)
    (source tag : Byte) : Header :=
  { kind := k.code, seq, spareSeq := 0, spareHops := 0, hops, label, length, source, tag }

/-! ## The check trailer (R13) -/

/-- R13 (3): one bit taken. -/
def checkBit (register : Word) (b : Bool) : Word :=
  if register.msb ^^ b then (register <<< 1) ^^^ 0x04C11DB7#32 else register <<< 1

/-- R13 (2): the bits of one byte, bit 0 first. -/
def checkByte (register : Word) (b : Byte) : Word :=
  [0, 1, 2, 3, 4, 5, 6, 7].foldl (fun r i => checkBit r (b.getLsbD i)) register

/-- R13 (1): the preset register. -/
def checkPreset : Word := BitVec.allOnes 32

/-- R13 (4): the check value of the bytes. -/
def checkValue (bytes : List Byte) : Word := ~~~ (bytes.foldl checkByte checkPreset)

/-- The bytes of a frame as sent: header, payload, fresh trailer (R14, R36 (2)). -/
def Frame.bytes (f : Frame) : List Byte :=
  let covered := encodeHeader f.header ++ f.payload
  covered ++ wordBytes (checkValue covered)

/-! ## Operation records (Table 13.3, R186) -/

/-- R186: 00H is clear, any other value set. -/
def flagOf (b : Byte) : Bool := b ≠ 0

def flagByte (b : Bool) : Byte := if b then 1 else 0

/-- Table 13.4, the seven bytes of an entry form. -/
def encodeForm (f : EntryForm) : List Byte :=
  [bit f.valid ++ bit f.translate ++ f.applies ++ (0 : BitVec 1) ++ f.action, f.order]
    ++ halfBytes f.base ++ halfBytes f.newBase ++ [f.channel]

/-- Table 13.4; bit 3 of byte 0 is ignored. -/
def decodeForm (b0 b1 b2 b3 b4 b5 b6 : Byte) : EntryForm :=
  { valid := b0.getLsbD 7, translate := b0.getLsbD 6, applies := b0.extractLsb' 4 2
    action := b0.extractLsb' 0 3, order := b1, base := halfOf b2 b3, newBase := halfOf b4 b5
    channel := b6 }

/-- The operation codes. -/
def Op.code : Op → Byte
  | .readWord _ => 0x01
  | .writeWord _ _ => 0x02
  | .modifyWord _ _ _ => 0x03
  | .tableWrite _ _ => 0x04
  | .tableRead _ _ => 0x05
  | .tableInvalidate _ _ => 0x06
  | .counterRead _ _ => 0x07
  | .seqReset _ => 0x08
  | .faultRead _ => 0x09
  | .setNode _ => 0x0A
  | .echo _ => 0x0B
  | .stationReset => 0x0C

/-- The operand bytes that follow the code. -/
def Op.operandBytes : Op → List Byte
  | .readWord a => [a]
  | .writeWord a v => a :: wordBytes v
  | .modifyWord a v m => a :: (wordBytes v ++ wordBytes m)
  | .tableWrite i f => i :: encodeForm f
  | .tableRead i c => [i, flagByte c]
  | .tableInvalidate f n => [f, n]
  | .counterRead i c => [i, flagByte c]
  | .seqReset c => [c]
  | .faultRead c => [flagByte c]
  | .setNode n => [n]
  | .echo data => BitVec.ofNat 8 data.length :: data
  | .stationReset => []

/-- An operation record. -/
def Op.record (o : Op) : List Byte := Op.code o :: Op.operandBytes o

/-- The record at the head of a payload and the bytes after it; `none` when the code names no operation
or the record is truncated (R128 (2), (3)). -/
def parseRecord : List Byte → Option (Op × List Byte)
  | [] => none
  | code :: rest =>
    match code.toNat, rest with
    | 0x01, a :: r => some (.readWord a, r)
    | 0x02, a :: v3 :: v2 :: v1 :: v0 :: r => some (.writeWord a (wordOf v3 v2 v1 v0), r)
    | 0x03, a :: v3 :: v2 :: v1 :: v0 :: m3 :: m2 :: m1 :: m0 :: r =>
      some (.modifyWord a (wordOf v3 v2 v1 v0) (wordOf m3 m2 m1 m0), r)
    | 0x04, i :: b0 :: b1 :: b2 :: b3 :: b4 :: b5 :: b6 :: r =>
      some (.tableWrite i (decodeForm b0 b1 b2 b3 b4 b5 b6), r)
    | 0x05, i :: c :: r => some (.tableRead i (flagOf c), r)
    | 0x06, f :: n :: r => some (.tableInvalidate f n, r)
    | 0x07, i :: c :: r => some (.counterRead i (flagOf c), r)
    | 0x08, c :: r => some (.seqReset c, r)
    | 0x09, c :: r => some (.faultRead (flagOf c), r)
    | 0x0A, n :: r => some (.setNode n, r)
    | 0x0B, n :: r =>
      if n.toNat ≤ r.length then some (.echo (r.take n.toNat), r.drop n.toNat) else none
    | 0x0C, r => some (.stationReset, r)
    | _, _ => none

/-- At most `n` records laid end to end over the whole payload. -/
def parseRecords : Nat → List Byte → Option (List Op)
  | _, [] => some []
  | 0, _ :: _ => none
  | n + 1, b :: bs =>
    match parseRecord (b :: bs) with
    | none => none
    | some (o, rest) => (parseRecords n rest).map (o :: ·)

def Op.isStationReset : Op → Bool
  | .stationReset => true
  | _ => false

def Op.isSetNode : Op → Bool
  | .setNode _ => true
  | _ => false

/-- R128: the operations of a request, `none` when it is MALFORMED. -/
def parseRequest (broadcast : Bool) (payload : List Byte) : Option (List Op) :=
  match parseRecords 16 payload with
  | none => none
  | some ops =>
    if ops.isEmpty || ops.dropLast.any Op.isStationReset || (broadcast && ops.any Op.isSetNode)
    then none else some ops

/-! ## Reply payload (Table 13.5) -/

def OpStatus.code : OpStatus → Byte
  | .ok => 0x00
  | .badAddress => 0x01
  | .readOnly => 0x02
  | .badOperand => 0x03
  | .badIndex => 0x04
  | .badEntry => 0x05
  | .notRun => 0x06

def OpResult.bytes (r : OpResult) : List Byte :=
  [r.code, r.status.code] ++ halfBytes (BitVec.ofNat 16 r.data.length) ++ r.data

/-- R133: overall status, record count, result records. -/
def replyPayload (overall : Byte) (results : List OpResult) : List Byte :=
  [overall, BitVec.ofNat 8 results.length] ++ results.flatMap OpResult.bytes

/-- R133: a MALFORMED reply. -/
def malformedPayload : List Byte := [0x02, 0x00]

/-! ## Fault record form (Table 13.6) -/

def portByte : PortId → Byte
  | .a => 0
  | .b => 1

def FaultReport.presence (r : FaultReport) : Byte :=
  (0 : BitVec 4) ++ bit r.buffer.isSome ++ bit r.channel.isSome ++ bit r.frame.isSome
    ++ bit r.port.isSome

def frameFieldBytes : Option FrameFields → List Byte
  | none => [0, 0, 0, 0, 0, 0, 0]
  | some f =>
    [f.kind.setWidth 8, f.hops.setWidth 8] ++ halfBytes f.label ++ halfBytes f.length ++ [f.source]

/-- The 24 bytes; an absent field is zero. -/
def faultForm (record : Option FaultReport) (overflow : Byte) : List Byte :=
  match record with
  | none => List.replicate 16 0 ++ [overflow] ++ List.replicate 7 0
  | some r =>
    [0x01, BitVec.ofNat 8 (r.kind.bit + 1), r.presence, (r.port.map portByte).getD 0]
      ++ frameFieldBytes r.frame
      ++ [((r.channel.map fun c => BitVec.ofNat 8 c.val).getD 0)]
      ++ wordBytes (r.buffer.getD 0) ++ [overflow] ++ List.replicate 7 0

/-! ## Steering entries (Table 13.4) -/

/-- R39 (2): the APPLIES codes. -/
def appliesOf (code : BitVec 2) : Option Applies :=
  match code.toNat with
  | 1 => some .down
  | 2 => some .up
  | 3 => some .both
  | _ => none

def Applies.code : Applies → BitVec 2
  | .down => 1
  | .up => 2
  | .both => 3

/-- R39 (2): the ACTION codes. -/
def actionOf (code : BitVec 3) : Option Action :=
  match code.toNat with
  | 0 => some .forward
  | 1 => some .capture
  | 2 => some .copy
  | 3 => some .discard
  | _ => none

def Action.code : Action → BitVec 3
  | .forward => 0
  | .capture => 1
  | .copy => 2
  | .discard => 3

/-- Whether the low `order` bits of a label are zero. -/
def aligned (label : Half) (order : Nat) : Bool := label.toNat % 2 ^ order = 0

/-- R39 (2): the entry a form describes with HITS 0, `none` for BAD_ENTRY. -/
def entryOf (f : EntryForm) : Option Entry :=
  match appliesOf f.applies, actionOf f.action with
  | some applies, some action =>
    if h : f.order.toNat ≤ 16 ∧ f.channel.toNat ≤ 7 then
      if aligned f.base f.order.toNat && (!f.translate || aligned f.newBase f.order.toNat) then
        some { valid := f.valid, base := f.base, order := ⟨f.order.toNat, by omega⟩, applies
               action, translate := f.translate, newBase := f.newBase
               channel := ⟨f.channel.toNat, by omega⟩, hits := 0 }
      else none
    else none
  | _, _ => none

/-- The form TABLE_READ returns for an entry (R186). -/
def formOf (e : Entry) : EntryForm :=
  { valid := e.valid, translate := e.translate, applies := e.applies.code, action := e.action.code
    order := BitVec.ofNat 8 e.order.val, base := e.base, newBase := e.newBase
    channel := BitVec.ofNat 8 e.channel.val }

/-! ## The control space (Tables 8.3 and 13.8) -/

inductive ControlWord where
  | ident
  | revision
  | node
  | portCtl
  | portState
  | defaultAction
  | egressCtl
  | faultMask
  | alertCtl
  | poolState
  | channelCfg (c : Fin 8)
  | channelState (c : Fin 8)
  deriving DecidableEq, Repr

/-- The word at an address, `none` for BAD_ADDRESS. -/
def controlWord (address : Byte) : Option ControlWord :=
  match address.toNat with
  | 0x00 => some .ident
  | 0x01 => some .revision
  | 0x02 => some .node
  | 0x03 => some .portCtl
  | 0x04 => some .portState
  | 0x05 => some .defaultAction
  | 0x06 => some .egressCtl
  | 0x07 => some .faultMask
  | 0x08 => some .alertCtl
  | 0x09 => some .poolState
  | n =>
    if 0x10 ≤ n ∧ n ≤ 0x17 then some (.channelCfg (Fin.ofNat 8 (n - 0x10)))
    else if 0x18 ≤ n ∧ n ≤ 0x1F then some (.channelState (Fin.ofNat 8 (n - 0x18)))
    else none

/-- Table 8.3, access. -/
def ControlWord.writable : ControlWord → Bool
  | .ident => false
  | .revision => false
  | .node => false
  | .portCtl => true
  | .portState => false
  | .defaultAction => true
  | .egressCtl => true
  | .faultMask => true
  | .alertCtl => true
  | .poolState => false
  | .channelCfg _ => true
  | .channelState _ => false

/-- The link state codes of section 13.4. -/
def LinkState.code : LinkState → BitVec 2
  | .offline => 0
  | .seeking => 1
  | .online => 2

/-- R37: link state, held and occupied of one port, in the low 14 bits. -/
def portField (P : Port) : Word :=
  place P.link.code 0 ||| place (BitVec.ofNat 6 P.held) 2 ||| place (BitVec.ofNat 6 P.occupied) 8

/-- R91: the number of buffers in a state. -/
def bufferCount (c : Capture) (st : BufferState) : Nat :=
  c.buffers.toList.countP fun b => b.state = st

/-- R134, R137: the value of a control word as it stands. -/
def readControl (d : Device) : ControlWord → Word
  | .ident => 0x5C300216
  | .revision => 0x00000001
  | .node => place d.agent.node 0
  | .portCtl => place (bit d.enableB) 0
  | .portState => portField d.ports.a ||| (portField d.ports.b <<< 16)
  | .defaultAction => place (bit d.table.discardDown) 0 ||| place (bit d.table.discardUp) 1
  | .egressCtl => place d.egressCtl.injectShare 0 ||| place d.egressCtl.injectHops 8
  | .faultMask => place d.stats.mask 0
  | .alertCtl => place (bit d.stats.alertEnable) 0 ||| place (bit d.stats.alertPending) 8
  | .poolState =>
    place (BitVec.ofNat 6 (bufferCount d.capture .pooled)) 0
      ||| place (BitVec.ofNat 6 (bufferCount d.capture .filling)) 8
      ||| place (BitVec.ofNat 6 (bufferCount d.capture .posted)) 16
      ||| place (BitVec.ofNat 6 (bufferCount d.capture .taken)) 24
  | .channelCfg c =>
    place (bit (d.channel c).enabled) 0 ||| place (bit (d.channel c).seqCheck) 1
      ||| place (d.channel c).quota 8 ||| place (d.channel c).clip 16
  | .channelState c =>
    place (bit (d.channel c).expect) 0 ||| place (bit (d.channel c).starved) 1
      ||| place (BitVec.ofNat 6 (d.channel c).held) 8

/-- R135 (3): whether every field of the value is in range. -/
def fieldsLegal (w : ControlWord) (v : Word) : Bool :=
  match w with
  | .egressCtl => v.extractLsb' 0 4 ≠ 0
  | .channelCfg _ =>
    let clip := (v.extractLsb' 16 11).toNat
    let quota := (v.extractLsb' 8 6).toNat
    clip % 16 = 0 && 16 ≤ clip && clip ≤ 1024 && 1 ≤ quota && quota ≤ 32
  | .ident | .revision | .node | .portCtl | .portState | .defaultAction | .faultMask | .alertCtl
  | .poolState | .channelState _ => true

/-! ## The LAP word map (Table 13.10) -/

inductive LapWord where
  | localIdent
  | localStatus
  | localCause
  | localEnable
  | localReset
  | noticeTake
  | latchWord (i : Fin 3)
  | freeReturn
  | slotHandover
  | slotRecall
  | bufSelect
  | slotSelect
  | slotHeader (slot : SlotId) (second : Bool)
  | bufData (word : Byte)
  | slotData (word : Byte)
  | unmapped
  deriving DecidableEq, Repr

/-- Section 13.6: the slot a 32-bit identifier names. -/
def slotOf (v : Word) : Option SlotId :=
  match v.toNat with
  | 0 => some ⟨.a, .even⟩
  | 1 => some ⟨.a, .odd⟩
  | 2 => some ⟨.b, .even⟩
  | 3 => some ⟨.b, .odd⟩
  | _ => none

/-- Table 13.10: the word at an address. The words after NOTICE_TAKE and the NOTICE_LATCH words read the
same latch (R178). -/
def lapWordAt (address : Half) : LapWord :=
  match address.toNat with
  | 0x0000 => .localIdent
  | 0x0001 => .localStatus
  | 0x0002 => .localCause
  | 0x0003 => .localEnable
  | 0x0004 => .localReset
  | 0x0008 => .noticeTake
  | 0x0009 => .latchWord 1
  | 0x000A => .latchWord 2
  | 0x000C => .latchWord 0
  | 0x000D => .latchWord 1
  | 0x000E => .latchWord 2
  | 0x0010 => .freeReturn
  | 0x0014 => .slotHandover
  | 0x0015 => .slotRecall
  | 0x0018 => .bufSelect
  | 0x0019 => .slotSelect
  | 0x0020 => .slotHeader ⟨.a, .even⟩ false
  | 0x0021 => .slotHeader ⟨.a, .even⟩ true
  | 0x0022 => .slotHeader ⟨.a, .odd⟩ false
  | 0x0023 => .slotHeader ⟨.a, .odd⟩ true
  | 0x0024 => .slotHeader ⟨.b, .even⟩ false
  | 0x0025 => .slotHeader ⟨.b, .even⟩ true
  | 0x0026 => .slotHeader ⟨.b, .odd⟩ false
  | 0x0027 => .slotHeader ⟨.b, .odd⟩ true
  | n =>
    if 0x0100 ≤ n ∧ n ≤ 0x01FF then .bufData (BitVec.ofNat 8 n)
    else if 0x0200 ≤ n ∧ n ≤ 0x02FF then .slotData (BitVec.ofNat 8 n)
    else .unmapped

/-- Table 13.10: the addresses of the words that commands reach. -/
def slotHeaderAddress (k : SlotId) (second : Bool) : Half :=
  BitVec.ofNat 16 (0x0020 + 2 * slotNumber k + (if second then 1 else 0))

def bufDataAddress (i : Byte) : Half := BitVec.ofNat 16 (0x0100 + i.toNat)

def slotDataAddress (i : Byte) : Half := BitVec.ofNat 16 (0x0200 + i.toNat)

/-- Table 13.11: a word of the latch; EMPTY reads as zero (R178). Bits of no field read as 0 (log 26). -/
def latchValue (latch : Option Notice) (i : Fin 3) : Word :=
  match latch with
  | none => 0
  | some n =>
    match i with
    | 0 => place (bit true) 31 ||| place (BitVec.ofNat 5 n.buffer.val) 24
        ||| place (BitVec.ofNat 3 n.channel.val) 20 ||| place (bit (n.port = .b)) 16
        ||| place (BitVec.ofNat 6 n.entry.val) 0
    | 1 => place n.label 16 ||| place (n.source.extractLsb' 0 6) 0
    | 2 => place (bit n.seq) 31 ||| place (bit n.clipped) 30
        ||| place (BitVec.ofNat 11 n.fullLength) 16 ||| place (BitVec.ofNat 11 n.capturedLength) 0

def SeqMode.code : SeqMode → BitVec 2
  | .auto => 0
  | .repeated => 1

/-- R181: any code but REPEAT is stored as AUTO. -/
def seqModeOf (v : Word) : SeqMode := if v.extractLsb' 0 2 = 1 then .repeated else .auto

def Owner.code : Owner → BitVec 2
  | .free => 0
  | .waiting => 1
  | .committed => 2

def SlotStatus.code : SlotStatus → BitVec 3
  | .none => 0
  | .sent => 1
  | .linkDown => 2
  | .unnumbered => 3
  | .badLength => 4
  | .recalled => 5

/-- Table 13.12. Bits of no field read as 0 (log 26). -/
def slotHeaderValue (s : Slot) (second : Bool) : Word :=
  if second then place s.seqMode.code 0 ||| place s.owner.code 8 ||| place s.status.code 16
  else place s.label 16 ||| place s.length 0

/-- The word of four bytes from an address, the first in the most significant place (R179, R182). -/
def memoryWord (m : List Host.Cell) (a : Nat) : Word :=
  wordOf (Memory.read m a) (Memory.read m (a + 1)) (Memory.read m (a + 2)) (Memory.read m (a + 3))

/-- R174: LOCAL_STATUS. Bits of no field read as 0 (log 26). -/
def localStatus (d : Device) : Word :=
  place d.agent.node 0 ||| place d.ports.a.link.code 8 ||| place d.ports.b.link.code 10
    ||| place (BitVec.ofNat 6 d.capture.free.length) 16
    ||| place (BitVec.ofNat 6 d.capture.delivery.length) 24

end Sys2Proof.Machine
end

