-- ==== Sys2Proof/Machine/Flags.lean ====
section
/-! DEFINITION. The local causes, their enables and the LATT pin (10, section 11.3). -/

namespace Sys2Proof.Machine

/-- R175: NOTICE is set exactly while the delivery queue is not empty. -/
def Device.noticeCause (d : Device) : Bool := !d.capture.delivery.isEmpty

/-- The five causes with the bits of LOCAL_CAUSE (Table 13.10). -/
def Device.causes (d : Device) : BitVec 5 :=
  bit d.lap.nodeChanged ++ bit d.lap.accessFault ++ bit d.lap.starvation ++ bit d.lap.launchDone
    ++ bit d.noticeCause

/-- R177: LATT is asserted while a cause is both set and enabled. -/
def Device.latt (d : Device) : Bool := d.causes &&& d.lap.enables ≠ 0

/-- R176: each edge cause whose bit is 1 is cleared; the bit of NOTICE is ignored. -/
def clearCauses (v : Word) (l : Lap) : Lap :=
  { l with
    launchDone := l.launchDone && !v.getLsbD 1
    starvation := l.starvation && !v.getLsbD 2
    accessFault := l.accessFault && !v.getLsbD 3
    nodeChanged := l.nodeChanged && !v.getLsbD 4 }

end Sys2Proof.Machine
end

