-- ==== Sys2Proof/Machine/LaunchUnit.lean ====
section
/-! DEFINITION. What the launch unit does with its slots: completions, the turn, and offers (06,
sections 7.3 to 7.5). -/

namespace Sys2Proof.Machine

/-- The number of the direction's NEXT slot (R111). -/
def Device.nextParity (d : Device) (p : PortId) : Parity := d.launch.next.get p

def Device.setNext (p : PortId) (k : Parity) (d : Device) : Device :=
  { d with launch := { d.launch with next := d.launch.next.set p k } }

def Device.setTxSeq (p : PortId) (v : Bool) (d : Device) : Device :=
  { d with launch := { d.launch with txSeq := d.launch.txSeq.set p v } }

/-- R116 (4): the counter of a completion status. -/
def completionCounter : SlotStatus → CounterId
  | .sent => .launched
  | .none | .linkDown | .unnumbered | .badLength | .recalled => .launchFailed

/-- R116 (1) to (6): a completion with status `st` of slot `k` of port `p`. -/
def completeSlot (p : PortId) (k : Parity) (st : SlotStatus) (d : Device) : Device :=
  let flips := st = .sent && (d.slot ⟨p, k⟩).seqMode = .auto
  let d := d.onSlot ⟨p, k⟩ fun s => { s with status := st, owner := .free, offered := none }
  let d := if flips then d.setTxSeq p (!d.launch.txSeq.get p) else d
  ((d.count (completionCounter st)).setNext p k.other).setLaunchDone

/-- R114: the SEQ of a frame offered now. -/
def offeredSeq (mode : SeqMode) (txSeq : Bool) : Bool :=
  match mode with
  | .auto => txSeq
  | .repeated => !txSeq

/-- R113: the header values fixed at the offer of slot `k` of port `p`. -/
def offerSlot (p : PortId) (k : Parity) (d : Device) : Device :=
  d.onSlot ⟨p, k⟩ fun s =>
    { s with offered := some { seq := offeredSeq s.seqMode (d.launch.txSeq.get p)
                               hops := d.egressCtl.injectHops
                               source := d.agent.node.setWidth 8 } }

/-- R112: the launch unit deals with a NEXT slot that is PART-WAITING and not yet offered. -/
def dealNext (p : PortId) (d : Device) : Device :=
  let k := d.nextParity p
  let s := d.slot ⟨p, k⟩
  if s.owner = .waiting ∧ s.offered = none then
    if !(d.port p).online then completeSlot p k .linkDown d
    else if d.agent.node = 0 then completeSlot p k .unnumbered d
    else offerSlot p k d
  else d

/-- R116: one event deals with at most the two slots of a direction. -/
def dealSlots (p : PortId) (d : Device) : Device := dealNext p (dealNext p d)

/-- R117: when the port leaves ONLINE, the NEXT slot, offered or COMMITTED, completes LINK_DOWN, and so
does the other if it waits. -/
def launchDown (p : PortId) (d : Device) : Device :=
  let k := d.nextParity p
  if (d.slot ⟨p, k⟩).owner = .free then d else dealSlots p (completeSlot p k .linkDown d)

/-- The slot the launch unit offers to the arbiter of port `p`, candidate I (R70). -/
def offeredSlot (d : Device) (p : PortId) : Option Parity :=
  let k := d.nextParity p
  let s := d.slot ⟨p, k⟩
  if s.owner = .waiting ∧ s.offered ≠ none then some k else none

/-- The payload bytes of a slot that go into its frame: the first LENGTH (R108). -/
def slotPayload (d : Device) (k : SlotId) : List Byte :=
  Memory.readBytes d.launch.mem (slotBase k) (d.slot k).length.toNat

/-- Table 7.2. -/
def launchedFrame (d : Device) (k : SlotId) (o : OfferedHeader) : Frame :=
  { header := composeHeader .data o.seq o.hops (d.slot k).label (d.slot k).length o.source 0
    payload := slotPayload d k }

end Sys2Proof.Machine
end

