-- ==== Sys2Proof/Machine/Egress.lean ====
section
/-! DEFINITION. The origin list, the egress arbiters, link drops and the enable of port B (04; 02,
sections 3.1 to 3.3). -/

namespace Sys2Proof.Machine

/-! ## Frames the part composes (R66, R68, R132, R152) -/

def Device.nodeLabel (d : Device) : Half := d.agent.node.setWidth 16

def Device.nodeSource (d : Device) : Byte := d.agent.node.setWidth 8

/-- R132; its HOPS is taken at the placement. -/
def replyFrame (r : Reply) (hops : BitVec 6) : Frame :=
  { header := composeHeader .mgmtRsp false hops r.label (BitVec.ofNat 16 r.payload.length) r.source r.tag
    payload := r.payload }

/-- Table 9.3. -/
def enumReturnFrame (mode next : Byte) (d : Device) : Frame :=
  { header := composeHeader .enumRet false d.egressCtl.injectHops 0 2 d.nodeSource 0
    payload := [mode, next] }

/-- R68: the ALERT composed from the record as it stands. -/
def alertFrame (d : Device) : Frame :=
  { header := composeHeader .alert false d.egressCtl.injectHops d.nodeLabel 24 d.nodeSource 0
    payload := faultForm d.stats.record d.stats.overflow }

/-- R131 (2), R126: a REPLY joins the origin list. -/
def Device.placeReply (r : Reply) (d : Device) : Device :=
  d.placeOrigin (.reply (replyFrame r d.egressCtl.injectHops))

/-- R67: a new enumeration return takes the place of one in the list, renewing it if it is chosen. -/
def renewEnumRet (f : Frame) (e : OriginEntry) : OriginEntry :=
  match e.body with
  | .enumRet _ _ => { e with body := .enumRet f e.chosen }
  | .reply _ | .alert => e

def Device.placeEnumRet (f : Frame) (d : Device) : Device :=
  if d.hasOrigin .enumRet then { d with origin := d.origin.map (renewEnumRet f) }
  else d.placeOrigin (.enumRet f false)

/-! ## The arbiter's choice (R70 to R72) -/

def Device.setChosen (p : PortId) (c : ChosenFrame) (d : Device) : Device :=
  d.onArbiter p fun a => { a with chosen := some { frame := c, sending := false } }

/-- F wins: the reference leaves the queue (R72). -/
def chooseForward (p : PortId) (ref : ForwardRef) (rest : List ForwardRef) (share : Nat)
    (d : Device) : Device :=
  d.onArbiter p fun a =>
    { a with queue := rest, share, chosen := some { frame := .forward ref, sending := false } }

/-- I wins: the slot becomes COMMITTED (R115) and the share counter 0. -/
def chooseLaunch (p : PortId) (k : Parity) (d : Device) : Device :=
  (d.onSlot ⟨p, k⟩ fun s => { s with owner := .committed }).onArbiter p fun a =>
    { a with share := 0, chosen := some { frame := .launch k, sending := false } }

/-- R71 (2), (3): the choice with no R present. -/
def chooseForwardOrLaunch (p : PortId) (d : Device) : Device :=
  let a := d.arbiter p
  match a.queue, offeredSlot d p with
  | [], none => d
  | ref :: rest, none => chooseForward p ref rest a.share d
  | [], some k => chooseLaunch p k d
  | ref :: rest, some k =>
    if a.share < d.egressCtl.injectShare.toNat then chooseForward p ref rest (a.share + 1) d
    else chooseLaunch p k d

/-- R71 (1), R68: R is the head of the origin list. An ALERT with an EMPTY record is withdrawn and the
choice made again among what remains. -/
def chooseOrigin : List OriginEntry → Device → Device
  | [], d => chooseForwardOrLaunch .a { d with origin := [] }
  | e :: rest, d =>
    match e.body, d.stats.record with
    | .alert, none => chooseOrigin rest (d.setAlertPending false)
    | .alert, some _ =>
      let f := alertFrame d
      ({ d with origin := { e with chosen := true } :: rest }.setAlertPending false).setChosen .a
        (.origin .alert f)
    | .reply f, _ =>
      { d with origin := { e with chosen := true } :: rest }.setChosen .a (.origin .reply f)
    | .enumRet f _, _ =>
      { d with origin := { e with chosen := true } :: rest }.setChosen .a (.origin .enumRet f)

/-- R70: the arbiter chooses when its port is ONLINE and it has no chosen frame. -/
def choose (p : PortId) (d : Device) : Device :=
  if (d.port p).online ∧ (d.arbiter p).chosen = none then
    match p with
    | .a => chooseOrigin d.origin d
    | .b => chooseForwardOrLaunch .b d
  else d

/-- Both arbiters, each on its own candidates. -/
def arbitrate (d : Device) : Device := choose .b (choose .a d)

/-- An error counted and recorded on a port (Table 3.5). The alert it may raise is a candidate at once
(R70). -/
def errorEvent (c : PortCounter) (k : FaultKind) (p : PortId) (h : Option Header)
    (d : Device) : Device :=
  arbitrate (d.portError c k p h)

/-! ## The chosen frame as it is sent -/

/-- R65: the received frame with HOPS, LABEL and, for an ENUM, NEXT replaced. -/
def forwardedFrame (ref : ForwardRef) (f : Frame) : Frame :=
  { header := { f.header with hops := ref.hops, label := ref.label, spareSeq := 0, spareHops := 0 }
    payload := match ref.next with
      | none => f.payload
      | some n => f.payload.set 1 n }

/-- The frame an arbiter's choice sends. -/
def chosenContent (p : PortId) (c : ChosenFrame) (d : Device) : Option Frame :=
  match c with
  | .origin _ f => some f
  | .forward ref =>
    ((d.port p.opposite).findResident ref.key).map fun r => forwardedFrame ref r.frame
  | .launch k => (d.slot ⟨p, k⟩).offered.map (launchedFrame d ⟨p, k⟩)

/-- The block count the chosen frame waits for (R63, R66, R113). -/
def chosenBlocks (p : PortId) (c : ChosenFrame) (d : Device) : Nat :=
  match c with
  | .origin _ f => f.header.blocks
  | .forward ref => ref.blocks
  | .launch k => blockCount (d.slot ⟨p, k⟩).length.toNat

/-! ## The egress side of a link drop or a disable (R75, R76) -/

/-- A forward reference is dropped: EGRESS_DROPPED is counted and the frame's forward use ends. -/
def dropRef (p : PortId) (d : Device) (ref : ForwardRef) : Device :=
  (d.countPort p .egressDropped).onPort p.opposite (Port.endForward ref.key)

/-- R69: the mark of a chosen entry is taken away; a renewed return keeps its new content. -/
def unchoose (e : OriginEntry) : OriginEntry :=
  match e.body with
  | .enumRet f _ => if e.chosen then { body := .enumRet f false, chosen := false } else e
  | .reply _ | .alert => { e with chosen := false }

/-- R69, R168 (4): the chosen origin entry returns unchosen; an ALERT is owed again. -/
def returnOrigin (kind : OriginKind) (d : Device) : Device :=
  let d := { d with origin := d.origin.map unchoose }
  if kind = .alert then d.setAlertPending true else d

/-- R75 (1): the end of the chosen frame without an EOF; a launch ends with `launchDown`. -/
def dropChosen (p : PortId) (d : Device) : Device :=
  match (d.arbiter p).chosen with
  | none => d
  | some c =>
    match c.frame with
    | .forward ref => dropRef p d ref
    | .origin kind _ => returnOrigin kind d
    | .launch _ => d

/-- R75 (1) to (4) with the launch completions of R117. -/
def egressDown (p : PortId) (d : Device) : Device :=
  let queue := (d.arbiter p).queue
  let d := queue.foldl (dropRef p) (dropChosen p d)
  launchDown p (d.onArbiter p fun a => { a with queue := [], chosen := none })

/-- R19, R20, R75: a link drop of port `p`. -/
def linkDrop (p : PortId) (d : Device) : Device :=
  let d := d.onPort p fun P =>
    { P.closeAccount with link := .seeking, readySent := false, tx := .between }
  errorEvent .linkDrops .linkDrop p none (egressDown p d)

/-! ## Going ONLINE, and the enable of port B -/

/-- R24: all of unannounced is announced, and becomes outstanding. -/
def Port.announce (P : Port) : Port :=
  { P with outstanding := P.outstanding + P.unannounced, unannounced := 0 }

/-- R17: the port becomes ONLINE, sends the closing READY and then CREDIT for all of unannounced. While
an ABORT is still owed (R36 (3)) the port is ONLINE all the same (log 27), and both symbols wait for it
(log 8). -/
def Port.goOnline (P : Port) : Port :=
  match P.tx with
  | .between =>
    { P.announce with
      link := .online, errorRun := 0
      lastSent := if P.unannounced = 0 then [.ready] else [.ready, .credit P.unannounced] }
  | .sending rest sent => { P with link := .online, errorRun := 0, tx := .sending rest sent }
  | .aborting owed _ => { P with link := .online, errorRun := 0, tx := .aborting owed true }

/-- R36 (3): the transmitter closes its frame with ABORT, the rest of the header bytes first. -/
def abortTransmission : Transmitter → Transmitter
  | .between => .between
  | .sending rest sent => .aborting (rest.take (8 - sent)) false
  | .aborting owed _ => .aborting owed false

/-- R21, R76: ENABLE_B is written 0. -/
def disableB (d : Device) : Device :=
  let d := { d with enableB := false }
  match d.ports.b.link with
  | .online =>
    egressDown .b (d.onPort .b fun P =>
      { P.closeAccount with link := .offline, tx := abortTransmission P.tx })
  | .seeking => d.onPort .b fun P => { P with link := .offline }
  | .offline => d

/-- R22: ENABLE_B is written 1. -/
def enableBOn (d : Device) : Device :=
  let d := { d with enableB := true }
  match d.ports.b.link with
  | .offline => d.onPort .b fun P => { P with link := .seeking, readySent := false }
  | .seeking | .online => d

/-- A write of the ENABLE_B field of PORT_CTL. -/
def writeEnableB (v : Bool) (d : Device) : Device := if v then enableBOn d else disableB d

end Sys2Proof.Machine
end

