-- ==== Sys2Proof/Machine/Requests.lean ====
section
/-! DEFINITION. The management agent: taking, starting, replaying, parsing and answering requests (07,
sections 8.1 to 8.5). -/

namespace Sys2Proof.Machine

def Device.onAgent (f : Agent → Agent) (d : Device) : Device := { d with agent := f d.agent }

/-- R132: the reply composed now. -/
def composeReply (tag : Byte) (payload : List Byte) (d : Device) : Reply :=
  { label := d.nodeLabel, source := d.nodeSource, tag, payload }

/-- R131 (1) to (4): the reply is composed, placed and, for a tag other than 0, stored; the request
leaves the queue. -/
def answerRequest (tag : Byte) (payload : List Byte) (d : Device) : Device :=
  let r := composeReply tag payload d
  (d.placeReply r).onAgent fun a =>
    { a with
      lastTag := if tag = 0 then a.lastTag else tag
      replay := if tag = 0 then a.replay else some r
      queue := a.queue.tail }

/-- R126: the stored reply, when the request's tag repeats LAST_TAG. -/
def replayFor (tag : Byte) (a : Agent) : Option Reply :=
  if tag ≠ 0 ∧ tag = a.lastTag then a.replay else none

/-- R126: the request is answered from the replay store. -/
def replayRequest (r : Reply) (d : Device) : Device :=
  ((d.count .replayed).placeReply r).onAgent fun a => { a with queue := a.queue.tail }

/-- R126, R128: a request that has been started is replayed, found MALFORMED, or becomes the batch. -/
def runRequest (q : RequestCopy) (d : Device) : Device :=
  match replayFor q.tag d.agent with
  | some r => replayRequest r d
  | none =>
    match parseRequest q.broadcast q.payload with
    | none => answerRequest q.tag malformedPayload (d.count .malformed)
    | some ops =>
      d.onAgent fun a => { a with batch := some { waiting := ops, results := [], failed := false } }

/-- R124: the head request is started once no batch runs and no REPLY waits; a station reset that is due
comes first (R145; log 20). -/
def startRequest (d : Device) : Device :=
  if d.agent.batch = none ∧ !d.hasOrigin .reply ∧ !d.agent.resetDue then
    match d.agent.queue with
    | [] => d
    | q :: _ => runRequest q (if q.broadcast then d.count .broadcasts else d)
  else d

/-- R123: an offered copy joins the queue, or is dropped as an overrun. -/
def offerCopy (h : Header) (q : RequestCopy) (d : Device) : Device :=
  if d.agent.queue.length < 2 then
    startRequest (d.onAgent fun a => { a with queue := a.queue ++ [q] })
  else (d.count .overrun).report (portFault .agentOverrun .a (some h))

end Sys2Proof.Machine
end

