-- ==== Sys2Proof/Machine/Steering.lean ====
section
/-! DEFINITION. The dispatch of a good frame: lookup, forward part, capture decision, agent copy and
enumeration (03, 04 sections 5.1 and 5.2, 05 section 6.2, 08). -/

namespace Sys2Proof.Machine

/-! ## The lookup (R42 to R48) -/

/-- R42, R43 (3): whether an entry applies to frames that arrived at the port. -/
def Applies.covers : Applies → PortId → Bool
  | .down, p => p = .a
  | .up, p => p = .b
  | .both, _ => true

/-- R43. -/
def Entry.hit (e : Entry) (p : PortId) (label : Half) : Bool :=
  e.valid && e.base.toNat ≤ label.toNat && label.toNat ≤ e.base.toNat + 2 ^ e.order.val - 1
    && e.applies.covers p

/-- R44: the matching entry of lowest index. -/
def Table.winner (t : Table) (p : PortId) (label : Half) : Option (Fin 64) :=
  (List.finRange 64).find? fun i => t.entries[i].hit p label

/-- R46. -/
def Entry.forwardLabel (e : Entry) (label : Half) : Half :=
  if e.translate then e.newBase + (label - e.base) else label

def Device.onEntry (i : Fin 64) (f : Entry → Entry) (d : Device) : Device :=
  { d with table := { d.table with entries := d.table.entries.set i (f d.table.entries[i]) } }

/-- R47: the default of the direction is DISCARD. -/
def Table.discards (t : Table) : PortId → Bool
  | .a => t.discardDown
  | .b => t.discardUp

/-! ## The forward part (R62, R63) -/

/-- R63, R64: a reference to the frame joins the queue of the opposite port. -/
def makeReference (p : PortId) (key : Nat) (h : Header) (label : Half) (next : Option Byte)
    (d : Device) : Device :=
  (d.onPort p (Port.mapResidents (beginForwardOf key))).onArbiter p.opposite fun a =>
    { a with queue := a.queue ++
        [{ key, blocks := h.blocks, hops := h.hops - 1, label, next }] }

/-- R62. -/
def forwardPart (p : PortId) (key : Nat) (h : Header) (label : Half) (d : Device) : Device :=
  if h.hops = 0 then d.portError .hopExpired .hopExpired p (some h)
  else if !(d.port p.opposite).online then
    d.portError .egressDropped .egressDown p.opposite (some h)
  else makeReference p key h label none d

/-! ## The capture decision (R81 to R86) -/

/-- R85. -/
def captureNoBuffer (p : PortId) (h : Header) (ch : Fin 8) (d : Device) : Device :=
  ((d.countChannel ch .noBuffer).onChannel ch fun c => { c with starved := true }).setStarvation.report
    { portFault .noBuffer p (some h) with channel := some ch }

/-- R86. -/
def captureAccept (p : PortId) (key : Nat) (h : Header) (entry : Fin 64) (ch : Fin 8) (b : Fin 32)
    (rest : List (Fin 32)) (d : Device) : Device :=
  let length := h.length.toNat
  let clip := (d.channel ch).clip.toNat
  let item : WorkItem :=
    { buffer := b, channel := ch, port := p, entry, label := h.label, source := h.source, seq := h.seq
      fullLength := length, capturedLength := min length clip, clipped := decide (clip < length), key }
  let d := { d with capture := { d.capture with free := rest, work := d.capture.work ++ [item] } }
  let d := d.onBuffer b fun _ => { state := .filling, channel := ch }
  let d := d.onChannel ch fun c =>
    { c with held := c.held + 1, starved := false
             expect := if c.seqCheck then !c.expect else c.expect }
  d.onPort p (Port.mapResidents (beginCaptureOf key))

/-- R81: the first check that applies decides. -/
def capturePart (p : PortId) (key : Nat) (h : Header) (entry : Fin 64) (ch : Fin 8)
    (d : Device) : Device :=
  let c := d.channel ch
  if !c.enabled then d.countChannel ch .disabledDrop
  else if c.seqCheck && h.seq != c.expect then d.countChannel ch .repeatDrop
  else if c.quota.toNat ≤ c.held then d.countChannel ch .quotaDrop
  else match d.capture.free with
    | [] => captureNoBuffer p h ch d
    | b :: rest => captureAccept p key h entry ch b rest d

/-! ## DATA (R61) -/

/-- R45, R61: the parts a winning entry gives the frame. -/
def actOn (p : PortId) (key : Nat) (h : Header) (i : Fin 64) (e : Entry) (d : Device) : Device :=
  match e.action with
  | .forward => forwardPart p key h (e.forwardLabel h.label) d
  | .capture => capturePart p key h i e.channel d
  | .copy =>
    eitherOrder (fun d => arbitrate (forwardPart p key h (e.forwardLabel h.label) d))
      (fun d => arbitrate (capturePart p key h i e.channel d)) d
  | .discard => d.countPort p .tableDiscards

/-- R47: no entry matched. -/
def defaultAction (p : PortId) (key : Nat) (h : Header) (d : Device) : Device :=
  let d := d.countPort p .defaultHits
  if d.table.discards p then d.countPort p .tableDiscards else forwardPart p key h h.label d

/-- R42 to R48: the lookup of a DATA frame and its outcome. -/
def steer (p : PortId) (key : Nat) (h : Header) (d : Device) : Device :=
  match d.table.winner p h.label with
  | some i =>
    actOn p key h i d.table.entries[i]
      (d.onEntry i fun e => { e with hits := saturatingSucc e.hits })
  | none => defaultAction p key h d

/-! ## MGMT-REQ (R59, R122) -/

/-- R8: the target of a request. -/
def Header.target (h : Header) : BitVec 6 := h.label.extractLsb' 0 6

def requestCopy (h : Header) (payload : List Byte) (broadcast : Bool) : RequestCopy :=
  { tag := h.tag, broadcast, length := h.length.toNat, payload }

/-- R59. -/
def dispatchRequest (key : Nat) (h : Header) (payload : List Byte) (d : Device) : Device :=
  if h.target = d.agent.node ∧ d.agent.node ≠ 0 then offerCopy h (requestCopy h payload false) d
  else if h.target = 63 then
    eitherOrder (fun d => arbitrate (forwardPart .a key h h.label d))
      (fun d => arbitrate (offerCopy h (requestCopy h payload true) d)) d
  else forwardPart .a key h h.label d

/-! ## ENUM (R148 to R152) -/

/-- R150: a node change by enumeration. -/
def takeNumber (next : Byte) (d : Device) : Device :=
  (d.onAgent fun a => { a with node := next.setWidth 6, lastTag := 0, replay := none }).setNodeChanged

/-- R151: how the pass goes on, with the NEXT passed on. -/
def passEnum (key : Nat) (h : Header) (mode next : Byte) (d : Device) : Device :=
  if h.hops = 0 then d.portError .hopExpired .hopExpired .a (some h)
  else if d.ports.b.online then makeReference .a key h h.label (some next) d
  else d.placeEnumRet (enumReturnFrame mode next d)

/-- R149: the station takes a number under RENUMBER, and under ASSIGN when it has none. -/
def takesNumber (mode : Byte) (node : BitVec 6) : Bool := mode = 2 || node = 0

/-- R148: the payload of an ENUM is in order. -/
def enumPayload : List Byte → Option (Byte × Byte)
  | [mode, next] =>
    if (mode = 1 ∨ mode = 2) ∧ 1 ≤ next.toNat ∧ next.toNat ≤ 63 then some (mode, next) else none
  | _ => none

/-- R149: the report of an exhausted take, which is part of the take. -/
def reportExhausted (h : Header) (d : Device) : Device :=
  d.report (portFault .numberExhausted .a (some h))

/-- R149, R151 at NEXT 63: the pass goes on after the take. At HOPS 0 it is a report of its own, and
R160 takes two reports of one event in either order (log 5). -/
def passExhausted (key : Nat) (h : Header) (mode : Byte) (d : Device) : Device :=
  if h.hops = 0 then
    eitherOrder (fun d => arbitrate (reportExhausted h d))
      (fun d => arbitrate (passEnum key h mode 63 d)) d
  else passEnum key h mode 63 (reportExhausted h d)

/-- R148 to R151: an ENUM at port A. -/
def dispatchEnum (key : Nat) (h : Header) (payload : List Byte) (d : Device) : Device :=
  match enumPayload payload with
  | none => d.portError .formatErr .format .a (some h)
  | some (mode, next) =>
    if takesNumber mode d.agent.node then
      if next = 63 then passExhausted key h mode d
      else passEnum key h mode (next + 1) (takeNumber next d)
    else passEnum key h mode next d

/-! ## The dispatch event (R57, R58) -/

/-- R60. -/
def misroute (p : PortId) (h : Header) (d : Device) : Device :=
  d.portError .misrouted .misrouted p (some h)

/-- Table 5.2. A header that names no kind is never dispatched (R29). -/
def dispatch (p : PortId) (key : Nat) (f : Frame) (d : Device) : Device :=
  match frameKind f.header.kind, p with
  | some .data, p => steer p key f.header d
  | some .mgmtReq, .a => dispatchRequest key f.header f.payload d
  | some .mgmtReq, .b => misroute .b f.header d
  | some .enum, .a => dispatchEnum key f.header f.payload d
  | some .enum, .b => misroute .b f.header d
  | some .mgmtRsp, .a => misroute .a f.header d
  | some .mgmtRsp, .b => forwardPart .b key f.header f.header.label d
  | some .enumRet, .a => misroute .a f.header d
  | some .enumRet, .b => forwardPart .b key f.header f.header.label d
  | some .alert, .a => misroute .a f.header d
  | some .alert, .b => forwardPart .b key f.header f.header.label d
  | none, _ => d

/-- R34, R57: the frame becomes resident, is dispatched in the same event, and is released if it is left
without a use. -/
def arrive (p : PortId) (h : Header) (blocks : Nat) (payload : List Byte) (d : Device) : Device :=
  let key := (d.port p).freshKey
  let f : Frame := { header := h, payload }
  let d := (d.countPort p .framesIn).onPort p fun P =>
    { P with
      rx := none
      residents := P.residents ++
        [{ key, frame := f, blocks, forwardUse := false, captureUse := false }] }
  arbitrate ((dispatch p key f d).onPort p Port.release)

end Sys2Proof.Machine
end

