-- ==== Sys2Proof/Machine/CaptureUnit.lean ====
section
/-! DEFINITION. The copy engine, notices and returns (05, sections 6.3 to 6.6), and the meaning of
COPY_COMPLETION. -/

namespace Sys2Proof.Machine

/-- The payload bytes of the frame a work item copies from (R93). -/
def itemPayload (d : Device) (w : WorkItem) : List Byte :=
  (((d.port w.port).findResident w.key).map fun r => r.frame.payload).getD []

/-- R97. -/
def noticeOf (w : WorkItem) : Notice :=
  { buffer := w.buffer, channel := w.channel, port := w.port, entry := w.entry, label := w.label
    source := w.source, seq := w.seq, fullLength := w.fullLength, capturedLength := w.capturedLength
    clipped := w.clipped }

/-- The first `n` payload bytes of the item's frame stand in the first bytes of its buffer (R93). -/
def copyBytes (w : WorkItem) (n : Nat) (d : Device) : Device :=
  { d with capture := { d.capture with
      mem := Memory.writeBytes d.capture.mem (bufferBase w.buffer) ((itemPayload d w).take n) } }

/-- R94: the copy of the head item completes. -/
def completeCopy (d : Device) : Device :=
  match d.capture.work with
  | [] => d
  | w :: rest =>
    let d := copyBytes w w.capturedLength d
    let d := { d with capture := { d.capture with
      work := rest, delivery := d.capture.delivery ++ [noticeOf w] } }
    let d := d.onBuffer w.buffer fun b => { b with state := .posted }
    let d := d.countChannel w.channel .captured
    let d := if w.clipped then d.countChannel w.channel .clipped else d
    d.onPort w.port (Port.endCapture w.key)

/-- R98, R178: the head notice is taken into the latch, or the latch receives EMPTY. -/
def takeNotice (d : Device) : Device :=
  match d.capture.delivery with
  | [] => { d with lap := { d.lap with latch := none } }
  | n :: rest =>
    let d := { d with capture := { d.capture with delivery := rest }
                      lap := { d.lap with latch := some n } }
    d.onBuffer n.buffer fun b => { b with state := .taken }

/-- R100. -/
def acceptReturn (b : Fin 32) (d : Device) : Device :=
  let ch := (d.buffer b).channel
  let d := d.onBuffer b fun x => { x with state := .pooled }
  let d := { d with capture := { d.capture with free := d.capture.free ++ [b] } }
  d.onChannel ch fun c => { c with held := c.held - 1 }

/-- R101. -/
def refuseReturn (v : Word) (d : Device) : Device :=
  ((d.count .returnRejects).report
    { kind := .returnReject, port := none, frame := none, channel := none, buffer := some v }
    ).setAccessFault

/-- R100, R101: the 32-bit value is taken whole as the buffer number. -/
def returnBuffer (v : Word) (d : Device) : Device :=
  if h : v.toNat < 32 then
    if (d.buffer ⟨v.toNat, h⟩).state = .taken then acceptReturn ⟨v.toNat, h⟩ d
    else arbitrate (refuseReturn v d)
  else arbitrate (refuseReturn v d)

/-- COPY_COMPLETION (R94); without a work item no copy is in progress and none completes (log 1). -/
def execCopyCompletion (s : State) : Host.Outcome State Fault Refusal :=
  onDevice (unlessHeld completeCopy) s

end Sys2Proof.Machine
end

