-- ==== Sys2Proof/Machine/Reset.lean ====
section
/-! DEFINITION. The three resets (R1, R145, R184) and the meanings of the commands of the RESET and LRST
pins. -/

namespace Sys2Proof.Machine

/-! ## Full reset (R1) -/

/-- Every block at its full-reset value; the input pins keep their levels but for RESET. -/
def fullReset (held : Bool) (d : Device) : Device :=
  { Device.reset with pins := { d.pins with resetLow := held }, choices := d.choices }

/-! ## Local reset (R184) -/

/-- R106 (1), R93: a copy in progress stops with some of its bytes moved; how many is free (log 6). -/
def stopCopy (d : Device) : Device :=
  match d.capture.work with
  | [] => d
  | w :: _ =>
    { copyBytes w (min (Config.bytesMoved d.choices) w.capturedLength) d with
      choices := d.choices + 1 }

/-- R38: every capture use ends, and frames without a use are released. -/
def Port.endCaptures (P : Port) : Port :=
  (P.mapResidents fun r => { r with captureUse := false }).release

/-- R106. -/
def captureLocalReset (d : Device) : Device :=
  let d := stopCopy d
  let d := (d.onPort .a Port.endCaptures).onPort .b Port.endCaptures
  { d with capture := { d.capture with
      work := [], delivery := [], free := List.finRange 32
      buffers := d.capture.buffers.map fun b => { b with state := .pooled }
      channels := d.capture.channels.map fun c => { c with held := 0, starved := false } } }

/-- R77: a chosen launch frame is withdrawn, or closed with ABORT when it is being sent. -/
def withdrawLaunch (p : PortId) (d : Device) : Device :=
  match (d.arbiter p).chosen with
  | none => d
  | some c =>
    match c.frame with
    | .origin _ _ | .forward _ => d
    | .launch _ =>
      let d := d.onArbiter p fun a => { a with chosen := none }
      if c.sending then d.onPort p fun P => { P with tx := abortTransmission P.tx } else d

/-- R121 (1): OWNER LOCAL, STATUS NONE, no offered header; the rest is kept. -/
def Slot.localReset (s : Slot) : Slot := { s with owner := .free, status := .none, offered := none }

/-- R121. -/
def launchLocalReset (d : Device) : Device :=
  let d := withdrawLaunch .b (withdrawLaunch .a d)
  let s := d.launch.slots
  { d with launch := { d.launch with
      slots := ⟨⟨s.a.even.localReset, s.a.odd.localReset⟩, ⟨s.b.even.localReset, s.b.odd.localReset⟩⟩
      next := ⟨.even, .even⟩, txSeq := ⟨false, false⟩ } }

/-- R184, at the LAP: causes clear, enables off, latch EMPTY; the selects are kept. -/
def lapLocalReset (d : Device) : Device :=
  { d with lap := { d.lap with
      launchDone := false, starvation := false, accessFault := false, nodeChanged := false
      enables := 0, latch := none } }

/-- R184: a local reset, one event at three blocks, after which the arbiters choose (R77). -/
def localReset (d : Device) : Device :=
  arbitrate (lapLocalReset (launchLocalReset (captureLocalReset d)))

/-! ## Station reset (Table 8.4) -/

/-- R105. -/
def Channel.stationReset (c : Channel) : Channel := { Channel.reset with held := c.held }

/-- R145, R146, R56, R78, R105, R159, R165, R170. -/
def stationReset (d : Device) : Device :=
  { d with
    table := Table.reset
    egressCtl := EgressCtl.reset
    capture := { d.capture with channels := d.capture.channels.map Channel.stationReset }
    stats := Stats.reset
    origin := d.origin.filter fun e => !e.waitingAlert
    agent := { d.agent with lastTag := 0, replay := none, resetDue := false } }

/-! ## The commands of the pins -/

/-- FULL_RESET (R1): RESET goes low, or power is applied, with RESET already high or not. -/
def execFullReset (powerOnHigh : Bool) (s : State) : Host.Outcome State Fault Refusal :=
  onDevice (fullReset (!powerOnHigh)) s

/-- RESET_RELEASE (R1): the hold ends; each port is in its full-reset link state, sending SEEK. -/
def execResetRelease (s : State) : Host.Outcome State Fault Refusal :=
  onDevice (fun d => { d with pins := { d.pins with resetLow := false } }) s

/-- R184: LRST goes low. A transaction in progress ends; while RESET is low no event is taken (R1). -/
def lrstLow (d : Device) : Device :=
  if d.pins.lrstLow then d
  else
    let d := { d with pins := { d.pins with lrstLow := true } }
    unlessHeld (fun d =>
      localReset { d with lap := { d.lap with context := .idle, ldo := 0 } }) d

/-- LRST_ASSERT (R184). -/
def execLrstAssert (s : State) : Host.Outcome State Fault Refusal := onDevice lrstLow s

/-- LRST_RELEASE (R184): the hold ends, with no reset of its own. -/
def execLrstRelease (s : State) : Host.Outcome State Fault Refusal :=
  onDevice (fun d => { d with pins := { d.pins with lrstLow := false } }) s

end Sys2Proof.Machine
end

