-- ==== Sys2Proof/Machine/Receive.lean ====
section
/-! DEFINITION. The link handshake and reception (02, sections 3.1 to 3.5): the meanings of the signal
commands and of the RX_ commands. -/

namespace Sys2Proof.Machine

/-! ## Inside a frame -/

/-- R27: a frame begins. -/
def RxFrame.fresh : RxFrame :=
  { count := 0, damaged := false, judged := .unjudged, charge := none, headerBytes := []
    header := none, stored := [], check := checkPreset, lastFour := [] }

/-- R33: the settlement, 64 byte positions to the block. -/
def RxFrame.settlement (f : RxFrame) : Nat := (f.count + 63) / 64

/-- R31: the check over all bytes before the last four differs from those four. -/
def RxFrame.checkFails (f : RxFrame) : Bool := f.lastFour ≠ wordBytes (~~~ f.check)

/-- R31 (2): a byte moves through the last four into the check register. -/
def RxFrame.takeCheck (f : RxFrame) (b : Byte) : RxFrame :=
  match f.lastFour with
  | [b0, b1, b2, b3] => { f with check := checkByte f.check b0, lastFour := [b1, b2, b3, b] }
  | l => { f with lastFour := l ++ [b] }

/-- R28 (3): the byte is stored in a charged, undamaged frame, up to the frame's size. The eight header
bytes are kept as they come. -/
def RxFrame.store (f : RxFrame) (b : Byte) : RxFrame :=
  if f.count < 8 then { f with headerBytes := f.headerBytes ++ [b] }
  else match f.header, f.charge with
    | some h, some _ =>
      if f.count < 12 + h.length.toNat then { f with stored := f.stored ++ [b] } else f
    | _, _ => f

/-- R28 (1), (2): one byte position is filled, by a data symbol or (`none`) by a symbol error. -/
def RxFrame.fill (f : RxFrame) (b : Option Byte) : RxFrame :=
  match b with
  | none => { f with count := f.count + 1, damaged := true }
  | some b =>
    if f.damaged then { f with count := f.count + 1 }
    else { (f.store b).takeCheck b with count := f.count + 1 }

def Device.setRx (p : PortId) (f : RxFrame) (d : Device) : Device :=
  d.onPort p fun P => { P with rx := some f }

/-- R29: the complete header is judged. The first step that applies decides. -/
def judgeHeader (p : PortId) (f : RxFrame) (d : Device) : Device :=
  if f.damaged then d.setRx p f
  else match decodeHeader f.headerBytes with
    | none => d.setRx p f
    | some h =>
      if !h.wellFormed then
        errorEvent .formatErr .format p (some h)
          (d.setRx p { f with header := some h, judged := .formatError })
      else if (d.port p).outstanding < h.blocks then
        errorEvent .creditViolation .creditViolation p (some h)
          ((d.setRx p { f with header := some h, judged := .creditViolation }).onPort p
            (Port.giveBack h.blocks))
      else
        (d.setRx p { f with header := some h, charge := some h.blocks }).onPort p fun P =>
          { P with outstanding := P.outstanding - h.blocks }

/-- R28: a byte position is filled; the eighth completes the header. -/
def receivePosition (p : PortId) (b : Option Byte) (d : Device) : Device :=
  match (d.port p).rx with
  | none => d
  | some f =>
    let g := f.fill b
    if g.count = 8 then judgeHeader p g d else d.setRx p g

/-! ## The end of a frame -/

/-- The frame is over: a charge is released to unannounced, an uncharged frame is settled (R31, R33). -/
def closeFrame (p : PortId) (f : RxFrame) (d : Device) : Device :=
  d.onPort p fun P =>
    match f.charge with
    | some _ => P.dropReception
    | none => { P with rx := none }.giveBack f.settlement

/-- R31, the end of a frame already judged: settled if it was a FORMAT error, and no more. -/
def closeJudged (p : PortId) (f : RxFrame) (d : Device) : Device :=
  match f.judged with
  | .creditViolation => d.onPort p fun P => { P with rx := none }
  | .formatError | .unjudged => closeFrame p f d

/-- R32: IDLE, READY or SOF inside a frame closes it as a FORMAT error. -/
def closeOutOfPlace (p : PortId) (d : Device) : Device :=
  match (d.port p).rx with
  | none => d
  | some f =>
    if f.judged = .unjudged then
      errorEvent .formatErr .format p f.header (closeFrame p f d)
    else closeJudged p f d

/-- R31 (2) to (4): the end of an unjudged frame at EOF. -/
def endAtEof (p : PortId) (f : RxFrame) (d : Device) : Device :=
  if f.damaged ∨ (8 ≤ f.count ∧ f.checkFails) then
    errorEvent .crcErr .crc p f.header (closeFrame p f d)
  else match f.header, f.charge with
    | some h, some blocks =>
      if f.count = 12 + h.length.toNat then arrive p h blocks (f.stored.take h.length.toNat) d
      else errorEvent .formatErr .format p f.header (closeFrame p f d)
    | _, _ => errorEvent .formatErr .format p f.header (closeFrame p f d)

/-- R31 at EOF. -/
def receiveEof (p : PortId) (d : Device) : Device :=
  match (d.port p).rx with
  | none => d
  | some f => if f.judged = .unjudged then endAtEof p f d else closeJudged p f d

/-- R31 (1), R33 at ABORT. -/
def receiveAbort (p : PortId) (d : Device) : Device :=
  match (d.port p).rx with
  | none => d
  | some f =>
    if f.judged = .unjudged then (closeFrame p f d).countPort p .abortedIn else closeJudged p f d

/-! ## Symbols by link state -/

/-- R19: a symbol that decodes sets the error run back to 0. -/
def decodedSymbol (p : PortId) (d : Device) : Device := d.onPort p fun P => { P with errorRun := 0 }

/-- A symbol other than SEEK and READY acts on an ONLINE port alone (R16, R18). -/
def onlineSymbol (p : PortId) (f : Device → Device) (d : Device) : Device :=
  if (d.port p).online then f (decodedSymbol p d) else d

/-- R17 (1), R19 (3). Ready sent becomes yes even while an ABORT is owed, before which no READY can go
out (log 27). -/
def receiveSeek (p : PortId) (d : Device) : Device :=
  match (d.port p).link with
  | .online => linkDrop p d
  | .seeking => d.onPort p fun P => { P with readySent := true }
  | .offline => d

/-- R17 (2), R32. In SEEKING the state alone decides: ready sent becomes yes, and the READY after that
takes the port ONLINE, even while an ABORT is still owed (log 27). -/
def receiveReady (p : PortId) (d : Device) : Device :=
  match (d.port p).link with
  | .online => onlineSymbol p (closeOutOfPlace p) d
  | .seeking =>
    if (d.port p).readySent then arbitrate (d.onPort p Port.goOnline)
    else d.onPort p fun P => { P with readySent := true }
  | .offline => d

/-- R25. -/
def receiveCredit (p : PortId) (n : Nat) (d : Device) : Device :=
  if 63 < (d.port p).held + n then
    errorEvent .creditOverrun .creditOverrun p none (d.onPort p fun P => { P with held := 63 })
  else d.onPort p fun P => { P with held := P.held + n }

/-- R27, R32: a frame begins, closing one it interrupts. -/
def receiveSof (p : PortId) (d : Device) : Device := (closeOutOfPlace p d).setRx p RxFrame.fresh

/-- R19 (2), R28 (2): a symbol error; the eighth in a row is a link drop. -/
def symbolError (p : PortId) (d : Device) : Device :=
  if (d.port p).online then
    if 8 ≤ (d.port p).errorRun + 1 then linkDrop p d
    else receivePosition p none (d.onPort p fun P => { P with errorRun := P.errorRun + 1 })
  else d

/-- R18, R19 (1). -/
def loseSignal (p : PortId) (d : Device) : Device :=
  match (d.port p).link with
  | .online => linkDrop p d
  | .seeking => d.onPort p fun P => { P with readySent := false }
  | .offline => d

/-- The level of a receive pair, which no reset changes (log 12). -/
def Device.setSignal (p : PortId) (v : Bool) (d : Device) : Device :=
  { d with pins := { d.pins with signal := d.pins.signal.set p v } }

/-! ## Meanings -/

/-- LOSS_OF_SIGNAL (R18, R19). -/
def execLossOfSignal (p : PortId) (s : State) : Host.Outcome State Fault Refusal :=
  onDevice (fun d => unlessHeld (loseSignal p) (d.setSignal p false)) s

/-- SIGNAL_RETURN (R18): the port carries on in its seek. -/
def execSignalReturn (p : PortId) (s : State) : Host.Outcome State Fault Refusal :=
  onDevice (Device.setSignal p true) s

/-- RX_SEEK (R17, R19, R32). -/
def execRxSeek (p : PortId) (s : State) : Host.Outcome State Fault Refusal :=
  onDevice (unlessHeld (receiveSeek p)) s

/-- RX_READY (R17, R32). -/
def execRxReady (p : PortId) (s : State) : Host.Outcome State Fault Refusal :=
  onDevice (unlessHeld (receiveReady p)) s

/-- RX_IDLE (R27, R32). -/
def execRxIdle (p : PortId) (s : State) : Host.Outcome State Fault Refusal :=
  onDevice (unlessHeld (onlineSymbol p (closeOutOfPlace p))) s

/-- RX_CREDIT (R25). A received code with a count outside 1..63 is a symbol error (R15). -/
def execRxCredit (p : PortId) (n : Nat) (s : State) : Host.Outcome State Fault Refusal :=
  onDevice (unlessHeld
    (if 1 ≤ n ∧ n ≤ 63 then onlineSymbol p (receiveCredit p n) else symbolError p)) s

/-- RX_SOF (R27, R32). -/
def execRxSof (p : PortId) (s : State) : Host.Outcome State Fault Refusal :=
  onDevice (unlessHeld (onlineSymbol p (receiveSof p))) s

/-- RX_DATA_SYMBOL (R27, R28, R29). -/
def execRxDataSymbol (p : PortId) (byte : Byte) (s : State) : Host.Outcome State Fault Refusal :=
  onDevice (unlessHeld (onlineSymbol p (receivePosition p (some byte)))) s

/-- RX_EOF (R27, R31, R57). -/
def execRxEof (p : PortId) (s : State) : Host.Outcome State Fault Refusal :=
  onDevice (unlessHeld (onlineSymbol p (receiveEof p))) s

/-- RX_ABORT (R27, R31). -/
def execRxAbort (p : PortId) (s : State) : Host.Outcome State Fault Refusal :=
  onDevice (unlessHeld (onlineSymbol p (receiveAbort p))) s

/-- RX_SYMBOL_ERROR (R19, R28). -/
def execRxSymbolError (p : PortId) (s : State) : Host.Outcome State Fault Refusal :=
  onDevice (unlessHeld (symbolError p)) s

end Sys2Proof.Machine
end

