-- ==== Sys2Proof/Machine/Transmit.lean ====
section
/-! DEFINITION. Transmission (02, section 3.7; 04, section 5.5): the meanings of the TX_ commands and of
the two writes of ENABLE_B. -/

namespace Sys2Proof.Machine

/-- R24: CREDIT for all of unannounced, when the port is ONLINE and its transmitter between frames. -/
def sendCredit (p : PortId) (d : Device) : Device :=
  if (d.port p).online ∧ (d.port p).tx = .between ∧ (d.port p).unannounced ≠ 0 then
    d.onPort p fun P => { P.announce with lastSent := [.credit P.unannounced] }
  else d

/-- R26, R72: the SOF of the chosen frame, once credit is held for it and no CREDIT is owed (R24). -/
def sendSof (p : PortId) (d : Device) : Device :=
  match (d.arbiter p).chosen with
  | none => d
  | some c =>
    let blocks := chosenBlocks p c.frame d
    match chosenContent p c.frame d with
    | none => d
    | some f =>
      if (d.port p).online ∧ (d.port p).tx = .between ∧ (d.port p).unannounced = 0 ∧ !c.sending
          ∧ blocks ≤ (d.port p).held then
        (d.onPort p fun P =>
          { P with held := P.held - blocks, tx := .sending f.bytes 0, lastSent := [.sof] }).onArbiter p
          fun a => { a with chosen := some { c with sending := true } }
      else d

/-- R36 (2), (3): the next byte of the frame, or of the header bytes owed before an ABORT. -/
def sendData (p : PortId) (d : Device) : Device :=
  match (d.port p).tx with
  | .sending (b :: rest) sent =>
    d.onPort p fun P => { P with tx := .sending rest (sent + 1), lastSent := [.data b] }
  | .aborting (b :: owed) closing =>
    d.onPort p fun P => { P with tx := .aborting owed closing, lastSent := [.data b] }
  | .between | .sending [] _ | .aborting [] _ => d

/-- R67, R69: the chosen entry leaves the list, or stays when it is a renewed enumeration return. -/
def settleOrigin (l : List OriginEntry) : List OriginEntry :=
  l.filterMap fun e =>
    if e.chosen then
      match e.body with
      | .enumRet f true => some { body := .enumRet f false, chosen := false }
      | .enumRet _ false | .reply _ | .alert => none
    else some e

/-- R69, R124, R168 (5): what the sender of an origin frame does at its EOF. The spec does not order it
against the arbiter's next choice (log 5). -/
def informOrigin (kind : OriginKind) (d : Device) : Device :=
  match kind with
  | .reply => eitherOrder arbitrate startRequest d
  | .alert => if d.stats.alertPending then eitherOrder arbitrate (Device.placeOrigin .alert) d else d
  | .enumRet => d

/-- R74: the end of the chosen frame at its EOF, by class. -/
def finishFrame (p : PortId) (c : ChosenFrame) (d : Device) : Device :=
  match c with
  | .forward ref => (d.countPort p .forwardedOut).onPort p.opposite (Port.endForward ref.key)
  | .launch k => dealSlots p (completeSlot p k .sent d)
  | .origin kind _ => informOrigin kind { d with origin := settleOrigin d.origin }

/-- R145: the EOF of a REPLY, on which the agent starts its next request (R124), comes after a station
reset that is due (log 20). -/
def ChosenFrame.waitsForReset (c : ChosenFrame) (a : Agent) : Bool :=
  match c with
  | .origin .reply _ => a.resetDue
  | .origin .enumRet _ | .origin .alert _ | .forward _ | .launch _ => false

/-- R36 (2), R74: the EOF of a frame all of whose bytes have been sent. -/
def sendEof (p : PortId) (d : Device) : Device :=
  match (d.port p).tx, (d.arbiter p).chosen with
  | .sending [] _, some c =>
    if c.frame.waitsForReset d.agent then d
    else
      let d := d.onPort p fun P => { P with tx := .between, lastSent := [.eof] }
      let d := d.onArbiter p fun a => { a with chosen := none }
      arbitrate (finishFrame p c.frame d)
  | _, _ => d

/-- R36 (3): the ABORT, once no header byte is owed. -/
def sendAbort (p : PortId) (d : Device) : Device :=
  match (d.port p).tx with
  | .aborting [] closing =>
    d.onPort p fun P =>
      { P with tx := .between, lastSent := if closing then [.abort, .ready] else [.abort] }
  | .between | .sending _ _ | .aborting (_ :: _) _ => d

/-- R16, R36: the symbol the transmitter repeats when it has nothing else to send; `none` is a quiet
pair (R1, R16). -/
def filler (d : Device) (p : PortId) : Option LineSymbol :=
  if d.pins.resetLow then none
  else match (d.port p).link with
    | .offline => none
    | .seeking => some (if (d.port p).readySent then .ready else .seek)
    | .online => some .idle

/-- TX_CREDIT (R24). -/
def execTxCredit (p : PortId) (s : State) : Host.Outcome State Fault Refusal :=
  onDevice (unlessHeld (sendCredit p)) s

/-- TX_SOF (R26, R72). -/
def execTxSof (p : PortId) (s : State) : Host.Outcome State Fault Refusal :=
  onDevice (unlessHeld (sendSof p)) s

/-- TX_DATA_SYMBOL (R36). -/
def execTxDataSymbol (p : PortId) (s : State) : Host.Outcome State Fault Refusal :=
  onDevice (unlessHeld (sendData p)) s

/-- TX_EOF (R36, R74). -/
def execTxEof (p : PortId) (s : State) : Host.Outcome State Fault Refusal :=
  onDevice (unlessHeld (sendEof p)) s

/-- TX_ABORT (R36). -/
def execTxAbort (p : PortId) (s : State) : Host.Outcome State Fault Refusal :=
  onDevice (unlessHeld (sendAbort p)) s

/-- ENABLE_B_CLEAR (R21, R76): the write of 0 at its owner, port B (log 9). -/
def execEnableBClear (s : State) : Host.Outcome State Fault Refusal :=
  onDevice (unlessHeld disableB) s

/-- ENABLE_B_SET (R22): the write of 1 at its owner, port B (log 9). -/
def execEnableBSet (s : State) : Host.Outcome State Fault Refusal :=
  onDevice (unlessHeld enableBOn) s

end Sys2Proof.Machine
end

