-- ==== Sys2Proof/Machine/Manage.lean ====
section
/-! DEFINITION. The management operations and the end of a batch (07, sections 8.4 to 8.8): the meanings
of READ_WORD to STATION_RESET_APPLIED. -/

namespace Sys2Proof.Machine

/-- What an operation's event yields: status, result data and the part after it (R129, R130). -/
structure OpOutcome where
  status : OpStatus
  data : List Byte
  dev : Device

/-- An operation that fails leaves the state as it was (R130). -/
def failsWith (st : OpStatus) (d : Device) : OpOutcome := { status := st, data := [], dev := d }

def yieldsData (data : List Byte) (d : Device) : OpOutcome := { status := .ok, data, dev := d }

/-! ## Control words (R134 to R136) -/

/-- R135: every field takes the value written, and the owner acts on it. -/
def writeControl (w : ControlWord) (v : Word) (d : Device) : Device :=
  match w with
  | .portCtl => writeEnableB (v.getLsbD 0) d
  | .defaultAction =>
    { d with table := { d.table with discardDown := v.getLsbD 0, discardUp := v.getLsbD 1 } }
  | .egressCtl =>
    { d with egressCtl := { injectShare := v.extractLsb' 0 4, injectHops := v.extractLsb' 8 6 } }
  | .faultMask => { d with stats := { d.stats with mask := v.extractLsb' 0 12 } }
  | .alertCtl => { d with stats := { d.stats with alertEnable := v.getLsbD 0 } }
  | .channelCfg c =>
    d.onChannel c fun x =>
      { x with enabled := v.getLsbD 0, seqCheck := v.getLsbD 1
               quota := v.extractLsb' 8 6, clip := v.extractLsb' 16 11 }
  | .ident | .revision | .node | .portState | .poolState | .channelState _ => d

/-- R134. -/
def opReadWord (address : Byte) (d : Device) : OpOutcome :=
  match controlWord address with
  | none => failsWith .badAddress d
  | some w => yieldsData (wordBytes (readControl d w)) d

/-- R135. -/
def opWriteWord (address : Byte) (value : Word) (d : Device) : OpOutcome :=
  match controlWord address with
  | none => failsWith .badAddress d
  | some w =>
    if !w.writable then failsWith .readOnly d
    else if !fieldsLegal w value then failsWith .badOperand d
    else yieldsData [] (writeControl w value d)

/-- R136: each bit from the value where the mask is 1, from the present value where it is 0. -/
def maskedValue (present value mask : Word) : Word := (value &&& mask) ||| (present &&& ~~~mask)

/-- R136. The data is the word as it stands after the change (Table 8.2; log 11). -/
def opModifyWord (address : Byte) (value mask : Word) (d : Device) : OpOutcome :=
  match controlWord address with
  | none => failsWith .badAddress d
  | some w =>
    let v := maskedValue (readControl d w) value mask
    if !w.writable then failsWith .readOnly d
    else if !fieldsLegal w v then failsWith .badOperand d
    else
      let d' := writeControl w v d
      yieldsData (wordBytes (readControl d' w)) d'

/-! ## Table, counters, faults, channels (R138 to R141) -/

/-- R39, R52. -/
def opTableWrite (index : Byte) (form : EntryForm) (d : Device) : OpOutcome :=
  if h : index.toNat < 64 then
    match entryOf form with
    | none => failsWith .badEntry d
    | some e => yieldsData [] (d.onEntry ⟨index.toNat, h⟩ fun _ => e)
  else failsWith .badIndex d

/-- R50, R186. -/
def opTableRead (index : Byte) (clear : Bool) (d : Device) : OpOutcome :=
  if h : index.toNat < 64 then
    let i : Fin 64 := ⟨index.toNat, h⟩
    let e := d.table.entries[i]
    yieldsData (encodeForm (formOf e) ++ wordBytes e.hits)
      (if clear then d.onEntry i fun e => { e with hits := 0 } else d)
  else failsWith .badIndex d

/-- R53: the entries first to first + count - 1 become invalid. -/
def invalidateRange (first count : Nat) (t : Table) : Table :=
  { t with entries := t.entries.mapIdx fun i e =>
      if first ≤ i ∧ i < first + count then { e with valid := false } else e }

/-- R53. -/
def opTableInvalidate (first count : Byte) (d : Device) : OpOutcome :=
  if 1 ≤ count.toNat ∧ count.toNat ≤ 64 ∧ first.toNat + count.toNat ≤ 64 then
    yieldsData [] { d with table := invalidateRange first.toNat count.toNat d.table }
  else failsWith .badIndex d

/-- R139, R158. -/
def opCounterRead (id : Byte) (clear : Bool) (d : Device) : OpOutcome :=
  if h : id.toNat < 82 then
    yieldsData (wordBytes d.stats.counters[id.toNat])
      (if clear then
        { d with stats := { d.stats with counters := d.stats.counters.set id.toNat 0 } }
      else d)
  else failsWith .badOperand d

/-- R103, R141. -/
def opSeqReset (channel : Byte) (d : Device) : OpOutcome :=
  if h : channel.toNat < 8 then
    yieldsData [] (d.onChannel ⟨channel.toNat, h⟩ fun c => { c with expect := false })
  else failsWith .badOperand d

/-- R140, R164: a read with clear of an EMPTY record changes nothing (log 17). -/
def opFaultRead (clear : Bool) (d : Device) : OpOutcome :=
  yieldsData (faultForm d.stats.record d.stats.overflow)
    (if clear && d.stats.record.isSome then d.emptyRecord else d)

/-! ## Node, echo, station reset (R142 to R144) -/

/-- R142, R153: a node change by request, which keeps the replay store. -/
def opSetNode (number : Byte) (d : Device) : OpOutcome :=
  if 1 ≤ number.toNat ∧ number.toNat ≤ 62 then
    yieldsData [] (d.onAgent fun a => { a with node := number.setWidth 6 }).setNodeChanged
  else failsWith .badOperand d

/-- R143. -/
def opEcho (data : List Byte) (d : Device) : OpOutcome :=
  if data.length ≤ 56 then yieldsData data d else failsWith .badOperand d

/-- R144: the event records its result and does nothing else. -/
def opStationReset (d : Device) : OpOutcome := yieldsData [] d

/-! ## The batch (R129 to R131) -/

/-- R129, R130: the operation `o` is the next of the running batch. -/
def Batch.due (b : Batch) (o : Op) : Bool := !b.failed && b.waiting.head? = some o

/-- R130: the result joins the results, and a status other than OK ends the batch. -/
def Batch.record (b : Batch) (o : Op) (r : OpOutcome) : Batch :=
  { waiting := b.waiting.tail
    results := b.results ++ [{ code := Op.code o, status := r.status, data := r.data }]
    failed := r.status ≠ .ok }

/-- R129: the event of operation `o`, which is taken when the running batch comes to it (log 10). No
batch runs while a station reset is due (R145, R146; log 20). -/
def runOperation (o : Op) (f : Device → OpOutcome) (d : Device) : Device :=
  match d.agent.batch with
  | none => d
  | some b =>
    if b.due o && !d.agent.resetDue then
      let r := f d
      r.dev.onAgent fun a => { a with batch := some (b.record o r) }
    else d

/-- R131: the batch has come to its end. -/
def Batch.over (b : Batch) : Bool := b.failed || b.waiting.isEmpty

/-- R130, R133: the result records, NOT_RUN for the operations a failure kept from running. -/
def Batch.finalResults (b : Batch) : List OpResult :=
  b.results ++ b.waiting.map fun o => { code := Op.code o, status := .notRun, data := [] }

/-- R133. -/
def Batch.payload (b : Batch) : List Byte :=
  replyPayload (if b.failed then 0x01 else 0x00) b.finalResults

/-- R145: STATION_RESET ran and yielded OK. -/
def Batch.resetRan (b : Batch) : Bool :=
  b.results.any fun r => r.code = Op.code .stationReset && r.status = .ok

/-- R131, R145. No batch runs, and so none ends, while a station reset is due (R146; log 20). -/
def endBatch (d : Device) : Device :=
  match d.agent.batch, d.agent.queue with
  | some b, q :: _ =>
    if b.over && !d.agent.resetDue then
      let d := (answerRequest q.tag b.payload d).count .requests
      arbitrate (d.onAgent fun a =>
        { a with batch := none, resetDue := b.resetRan })
    else d
  | _, _ => d

/-! ## Meanings -/

/-- READ_WORD (R134). -/
def execReadWord (address : Byte) (s : State) : Host.Outcome State Fault Refusal :=
  onDevice (unlessHeld (runOperation (.readWord address) (opReadWord address))) s

/-- WRITE_WORD (R135). -/
def execWriteWord (address : Byte) (value : Word) (s : State) : Host.Outcome State Fault Refusal :=
  onDevice (unlessHeld (runOperation (.writeWord address value) (opWriteWord address value))) s

/-- MODIFY_WORD (R136). -/
def execModifyWord (address : Byte) (value mask : Word) (s : State) :
    Host.Outcome State Fault Refusal :=
  onDevice (unlessHeld
    (runOperation (.modifyWord address value mask) (opModifyWord address value mask))) s

/-- TABLE_WRITE (R39, R52). -/
def execTableWrite (index : Byte) (form : EntryForm) (s : State) : Host.Outcome State Fault Refusal :=
  onDevice (unlessHeld (runOperation (.tableWrite index form) (opTableWrite index form))) s

/-- TABLE_READ (R50). -/
def execTableRead (index : Byte) (clear : Bool) (s : State) : Host.Outcome State Fault Refusal :=
  onDevice (unlessHeld (runOperation (.tableRead index clear) (opTableRead index clear))) s

/-- TABLE_INVALIDATE (R53). -/
def execTableInvalidate (first count : Byte) (s : State) : Host.Outcome State Fault Refusal :=
  onDevice (unlessHeld (runOperation (.tableInvalidate first count) (opTableInvalidate first count))) s

/-- COUNTER_READ (R139). -/
def execCounterRead (id : Byte) (clear : Bool) (s : State) : Host.Outcome State Fault Refusal :=
  onDevice (unlessHeld (runOperation (.counterRead id clear) (opCounterRead id clear))) s

/-- SEQ_RESET (R141). -/
def execSeqReset (channel : Byte) (s : State) : Host.Outcome State Fault Refusal :=
  onDevice (unlessHeld (runOperation (.seqReset channel) (opSeqReset channel))) s

/-- FAULT_READ (R140). -/
def execFaultRead (clear : Bool) (s : State) : Host.Outcome State Fault Refusal :=
  onDevice (unlessHeld (runOperation (.faultRead clear) (opFaultRead clear))) s

/-- SET_NODE (R142). -/
def execSetNode (number : Byte) (s : State) : Host.Outcome State Fault Refusal :=
  onDevice (unlessHeld (runOperation (.setNode number) (opSetNode number))) s

/-- ECHO (R143). -/
def execEcho (data : List Byte) (s : State) : Host.Outcome State Fault Refusal :=
  onDevice (unlessHeld (runOperation (.echo data) (opEcho data))) s

/-- STATION_RESET (R144). -/
def execStationReset (s : State) : Host.Outcome State Fault Refusal :=
  onDevice (unlessHeld (runOperation .stationReset opStationReset)) s

/-- BATCH_END (R131). -/
def execBatchEnd (s : State) : Host.Outcome State Fault Refusal := onDevice (unlessHeld endBatch) s

/-- STATION_RESET_APPLIED (R145): the agent's next event after the batch end, and no event otherwise
(log 20). -/
def execStationResetApplied (s : State) : Host.Outcome State Fault Refusal :=
  onDevice (unlessHeld fun d => if d.agent.resetDue then stationReset d else d) s

end Sys2Proof.Machine
end

