-- ==== Sys2Proof/Machine/LocalPort.lean ====
section
/-! DEFINITION. The local access port (10; 12, section 13.6): the transaction form, the reads of the LAP
word map, and the meanings of TRANSACTION_BEGIN to LAP_READ_ONLY_WRITE. -/

namespace Sys2Proof.Machine

def Device.onLap (f : Lap → Lap) (d : Device) : Device := { d with lap := f d.lap }

/-! ## Reads (R172, R174, R178, R179, R181, R182, R187) -/

/-- R179: a word of the selected buffer, if that is LOCAL; else zero with ACCESS_FAULT. -/
def readBufData (i : Byte) (d : Device) : Word × Device :=
  if (d.buffer d.lap.bufSelect).state = .taken then
    (memoryWord d.capture.mem (bufferBase d.lap.bufSelect + 4 * i.toNat), d)
  else (0, d.setAccessFault)

/-- One read event: the value taken, and the part after it. A word that can only be written and an
unmapped word read as zero with no effect (R172, R187). Bits of LOCAL_CAUSE and LOCAL_ENABLE that
belong to no cause read as 0 (log 26). -/
def lapRead (w : LapWord) (d : Device) : Word × Device :=
  match w with
  | .localIdent => (0x5C302161, d)
  | .localStatus => (localStatus d, d)
  | .localCause => (d.causes.setWidth 32, d)
  | .localEnable => (d.lap.enables.setWidth 32, d)
  | .noticeTake =>
    let d' := takeNotice d
    (latchValue d'.lap.latch 0, d')
  | .latchWord i => (latchValue d.lap.latch i, d)
  | .bufSelect => (BitVec.ofNat 32 d.lap.bufSelect.val, d)
  | .slotSelect => (BitVec.ofNat 32 (slotNumber d.lap.slotSelect), d)
  | .slotHeader k second => (slotHeaderValue (d.slot k) second, d)
  | .bufData i => readBufData i d
  | .slotData i => (memoryWord d.launch.mem (slotBase d.lap.slotSelect + 4 * i.toNat), d)
  | .localReset | .freeReturn | .slotHandover | .slotRecall | .unmapped => (0, d)

/-! ## The transaction form (R171 to R173) -/

/-- R184, R185: while LRST or RESET is low the LAP ignores LCS. -/
def Device.lapHeld (d : Device) : Bool := d.pins.resetLow || d.pins.lrstLow

/-- Whether a READ run whose next word is at `next` can come to `address` over words whose read has no
effect, and so no command (R171; log 3). -/
def readReaches (next address : Nat) : Bool :=
  next == address
    || (address == 0x0008 && (next ≤ 0x0008 || 0x0200 ≤ next))
    || (address == 0x0100 && 0x0009 ≤ next && next ≤ 0x0100)

/-- R171: the words of a WRITE follow one another; those of a READ too, but for words passed over. -/
def continues (c : LapCommand) (next address : Half) : Bool :=
  match c with
  | .write => next = address
  | .read => readReaches next.toNat address.toNat

/-- After a word event the transaction stands before the next address, FFFFH moving to 0000H (R171). -/
def afterWord (c : LapCommand) (address : Half) (d : Device) : Device :=
  d.onLap fun l => { l with context := .words c (address + 1) 0 }

/-- A word event of a transaction (R172, R173). With no transaction open and LCS high the command is a
one-word transaction of its own (log 2). A word that the open transaction cannot come to next is not
due (log 1). -/
def lapWord (c : LapCommand) (address : Half) (f : Device → Device) (d : Device) : Device :=
  if d.lapHeld then d
  else match d.lap.context with
    | .idle => if d.pins.lcsLow then d else f d
    | .opened => afterWord c address (f d)
    | .words c' next _ =>
      if c' = c && continues c next address then afterWord c address (f d) else d
    | .ignored => d

/-- A write event: LDO carries zeros during a WRITE (R171). -/
def lapWrite (address : Half) (f : Device → Device) (d : Device) : Device :=
  lapWord .write address (fun d => (f d).onLap fun l => { l with ldo := 0 }) d

/-- A read event: the value taken is the value shifted out (R172). -/
def lapReadAt (address : Half) (d : Device) : Device :=
  lapWord .read address
    (fun d =>
      let r := lapRead (lapWordAt address) d
      r.2.onLap fun l => { l with ldo := r.1 }) d

/-! ## Writes -/

/-- R179. -/
def selectBuffer (v : Word) (d : Device) : Device :=
  if h : v.toNat < 32 then d.onLap fun l => { l with bufSelect := ⟨v.toNat, h⟩ }
  else d.setAccessFault

/-- R182. -/
def selectSlot (v : Word) (d : Device) : Device :=
  match slotOf v with
  | some k => d.onLap fun l => { l with slotSelect := k }
  | none => d.setAccessFault

/-- R108, R181. -/
def writeSlotHeader (k : SlotId) (second : Bool) (v : Word) (d : Device) : Device :=
  if (d.slot k).owner = .free then
    d.onSlot k fun s =>
      if second then { s with seqMode := seqModeOf v }
      else { s with label := v.extractLsb' 16 16, length := v.extractLsb' 0 16 }
  else d.setAccessFault

/-- R108, R182. -/
def writeSlotData (i : Byte) (v : Word) (d : Device) : Device :=
  let k := d.lap.slotSelect
  if (d.slot k).owner = .free then
    { d with launch := { d.launch with
        mem := Memory.writeBytes d.launch.mem (slotBase k + 4 * i.toNat) (wordBytes v) } }
  else d.setAccessFault

/-- R109: a handover of a LOCAL slot, refused for its length or taken. -/
def handOver (k : SlotId) (d : Device) : Device :=
  if 1024 < (d.slot k).length.toNat then
    (d.onSlot k fun s => { s with status := .badLength }).setLaunchDone
  else
    arbitrate (dealSlots k.port
      (d.onSlot k fun s => { s with status := .none, owner := .waiting, offered := none }))

/-- R109, R110. -/
def slotHandover (v : Word) (d : Device) : Device :=
  match slotOf v with
  | none => d.setAccessFault
  | some k => if (d.slot k).owner = .free then handOver k d else d.setAccessFault

/-- R118: a recall reaches a PART-WAITING slot alone. -/
def slotRecall (v : Word) (d : Device) : Device :=
  match slotOf v with
  | none => d.setAccessFault
  | some k =>
    if (d.slot k).owner = .waiting then
      (d.onSlot k fun s => { s with owner := .free, status := .recalled, offered := none }).setLaunchDone
    else d

/-- R171: a command byte that is neither READ nor WRITE refuses the transaction. -/
def badCommand (code : Byte) (d : Device) : Device :=
  if d.lapHeld || code == 0x01#8 || code == 0x02#8 then d
  else match d.lap.context with
    | .idle => if d.pins.lcsLow then d else d.setAccessFault.onLap fun l => { l with ldo := 0 }
    | .opened => d.setAccessFault.onLap fun l => { l with context := .ignored, ldo := 0 }
    | .words _ _ _ | .ignored => d

/-- R184: after the reset the rest of the transaction is ignored. -/
def ignoreRest (d : Device) : Device :=
  d.onLap fun l => { l with context := match l.context with
    | .words _ _ _ => .ignored
    | .idle => .idle
    | .opened => .opened
    | .ignored => .ignored }

/-- R184: a local reset written to LOCAL_RESET. -/
def writeLocalReset (d : Device) : Device :=
  if d.lapHeld then d
  else match d.lap.context with
    | .idle => if d.pins.lcsLow then d else lapWrite 0x0004 localReset d
    | .opened => ignoreRest (lapWrite 0x0004 localReset d)
    | .words c next _ =>
      if c = .write && continues .write next 0x0004 then ignoreRest (lapWrite 0x0004 localReset d)
      else d
    | .ignored => d

/-- R171: LCS goes low. -/
def beginTransaction (d : Device) : Device :=
  if d.pins.lcsLow then d
  else
    let d := { d with pins := { d.pins with lcsLow := true } }
    if d.lapHeld then d else d.onLap fun l => { l with context := .opened, ldo := 0 }

/-- R171, R173: LCS goes high; a word not yet complete is discarded. A held LAP ignores LCS (R184). -/
def endTransaction (d : Device) : Device :=
  let d := { d with pins := { d.pins with lcsLow := false } }
  if d.lapHeld then d else d.onLap fun l => { l with context := .idle }

/-! ## Meanings -/

/-- TRANSACTION_BEGIN (R171). -/
def execTransactionBegin (s : State) : Host.Outcome State Fault Refusal := onDevice beginTransaction s

/-- TRANSACTION_END (R171). -/
def execTransactionEnd (s : State) : Host.Outcome State Fault Refusal := onDevice endTransaction s

/-- LAP_BAD_COMMAND (R171). -/
def execLapBadCommand (code : Byte) (s : State) : Host.Outcome State Fault Refusal :=
  onDevice (badCommand code) s

/-- LOCAL_RESET (R184): any value. -/
def execLocalReset (_value : Word) (s : State) : Host.Outcome State Fault Refusal :=
  onDevice writeLocalReset s

/-- LOCAL_CAUSE_WRITE (R176). -/
def execLocalCauseWrite (value : Word) (s : State) : Host.Outcome State Fault Refusal :=
  onDevice (lapWrite 0x0002 (Device.onLap (clearCauses value))) s

/-- LOCAL_ENABLE_WRITE (R177). -/
def execLocalEnableWrite (value : Word) (s : State) : Host.Outcome State Fault Refusal :=
  onDevice (lapWrite 0x0003 (Device.onLap fun l => { l with enables := value.extractLsb' 0 5 })) s

/-- NOTICE_TAKE (R98, R178). -/
def execNoticeTake (s : State) : Host.Outcome State Fault Refusal := onDevice (lapReadAt 0x0008) s

/-- FREE_RETURN (R100, R101, R180). -/
def execFreeReturn (value : Word) (s : State) : Host.Outcome State Fault Refusal :=
  onDevice (lapWrite 0x0010 (returnBuffer value)) s

/-- BUF_SELECT_WRITE (R179). -/
def execBufSelectWrite (value : Word) (s : State) : Host.Outcome State Fault Refusal :=
  onDevice (lapWrite 0x0018 (selectBuffer value)) s

/-- BUF_DATA_READ (R179). -/
def execBufDataRead (word : Byte) (s : State) : Host.Outcome State Fault Refusal :=
  onDevice (lapReadAt (bufDataAddress word)) s

/-- SLOT_HEADER_WRITE (R108, R181). -/
def execSlotHeaderWrite (slot : SlotId) (second : Bool) (value : Word) (s : State) :
    Host.Outcome State Fault Refusal :=
  onDevice (lapWrite (slotHeaderAddress slot second) (writeSlotHeader slot second value)) s

/-- SLOT_SELECT_WRITE (R182). -/
def execSlotSelectWrite (value : Word) (s : State) : Host.Outcome State Fault Refusal :=
  onDevice (lapWrite 0x0019 (selectSlot value)) s

/-- SLOT_DATA_WRITE (R108, R182). -/
def execSlotDataWrite (word : Byte) (value : Word) (s : State) : Host.Outcome State Fault Refusal :=
  onDevice (lapWrite (slotDataAddress word) (writeSlotData word value)) s

/-- SLOT_HANDOVER (R109, R110, R183). -/
def execSlotHandover (value : Word) (s : State) : Host.Outcome State Fault Refusal :=
  onDevice (lapWrite 0x0014 (slotHandover value)) s

/-- SLOT_RECALL (R118, R183). -/
def execSlotRecall (value : Word) (s : State) : Host.Outcome State Fault Refusal :=
  onDevice (lapWrite 0x0015 (slotRecall value)) s

/-- LAP_READ_ONLY_WRITE (R173, R187). A word that takes writes has a command of its own, and its write
is not this event (log 1). -/
def execLapReadOnlyWrite (address : Half) (_value : Word) (s : State) :
    Host.Outcome State Fault Refusal :=
  onDevice (fun d =>
    match lapWordAt address with
    | .localIdent | .localStatus | .noticeTake | .latchWord _ | .bufData _ | .unmapped =>
      lapWrite address Device.setAccessFault d
    | .localCause | .localEnable | .localReset | .freeReturn | .slotHandover | .slotRecall
    | .bufSelect | .slotSelect | .slotHeader _ _ | .slotData _ => d) s

end Sys2Proof.Machine
end

