-- ==== Sys2Proof/Machine/Dispatch.lean ====
section
/-! DEFINITION. The meaning of each command: one arm per constructor of Instr. -/

namespace Sys2Proof.Machine

def exec (i : Instr) (s : State) : Host.Outcome State Fault Refusal :=
  match i with
  | .fullReset powerOnHigh => Sys2Proof.Machine.execFullReset powerOnHigh s
  | .resetRelease => Sys2Proof.Machine.execResetRelease s
  | .lrstAssert => Sys2Proof.Machine.execLrstAssert s
  | .lrstRelease => Sys2Proof.Machine.execLrstRelease s
  | .lossOfSignal p => Sys2Proof.Machine.execLossOfSignal p s
  | .signalReturn p => Sys2Proof.Machine.execSignalReturn p s
  | .rxSeek p => Sys2Proof.Machine.execRxSeek p s
  | .rxReady p => Sys2Proof.Machine.execRxReady p s
  | .rxIdle p => Sys2Proof.Machine.execRxIdle p s
  | .rxCredit p n => Sys2Proof.Machine.execRxCredit p n s
  | .rxSof p => Sys2Proof.Machine.execRxSof p s
  | .rxDataSymbol p byte => Sys2Proof.Machine.execRxDataSymbol p byte s
  | .rxEof p => Sys2Proof.Machine.execRxEof p s
  | .rxAbort p => Sys2Proof.Machine.execRxAbort p s
  | .rxSymbolError p => Sys2Proof.Machine.execRxSymbolError p s
  | .txCredit p => Sys2Proof.Machine.execTxCredit p s
  | .txSof p => Sys2Proof.Machine.execTxSof p s
  | .txDataSymbol p => Sys2Proof.Machine.execTxDataSymbol p s
  | .txEof p => Sys2Proof.Machine.execTxEof p s
  | .txAbort p => Sys2Proof.Machine.execTxAbort p s
  | .copyCompletion => Sys2Proof.Machine.execCopyCompletion s
  | .readWord address => Sys2Proof.Machine.execReadWord address s
  | .writeWord address value => Sys2Proof.Machine.execWriteWord address value s
  | .modifyWord address value mask => Sys2Proof.Machine.execModifyWord address value mask s
  | .enableBClear => Sys2Proof.Machine.execEnableBClear s
  | .enableBSet => Sys2Proof.Machine.execEnableBSet s
  | .tableWrite index form => Sys2Proof.Machine.execTableWrite index form s
  | .tableRead index clear => Sys2Proof.Machine.execTableRead index clear s
  | .tableInvalidate first count => Sys2Proof.Machine.execTableInvalidate first count s
  | .counterRead id clear => Sys2Proof.Machine.execCounterRead id clear s
  | .seqReset channel => Sys2Proof.Machine.execSeqReset channel s
  | .faultRead clear => Sys2Proof.Machine.execFaultRead clear s
  | .setNode number => Sys2Proof.Machine.execSetNode number s
  | .echo data => Sys2Proof.Machine.execEcho data s
  | .stationReset => Sys2Proof.Machine.execStationReset s
  | .batchEnd => Sys2Proof.Machine.execBatchEnd s
  | .stationResetApplied => Sys2Proof.Machine.execStationResetApplied s
  | .localReset value => Sys2Proof.Machine.execLocalReset value s
  | .localCauseWrite value => Sys2Proof.Machine.execLocalCauseWrite value s
  | .localEnableWrite value => Sys2Proof.Machine.execLocalEnableWrite value s
  | .noticeTake => Sys2Proof.Machine.execNoticeTake s
  | .freeReturn value => Sys2Proof.Machine.execFreeReturn value s
  | .bufSelectWrite value => Sys2Proof.Machine.execBufSelectWrite value s
  | .bufDataRead word => Sys2Proof.Machine.execBufDataRead word s
  | .slotHeaderWrite slot second value => Sys2Proof.Machine.execSlotHeaderWrite slot second value s
  | .slotSelectWrite value => Sys2Proof.Machine.execSlotSelectWrite value s
  | .slotDataWrite word value => Sys2Proof.Machine.execSlotDataWrite word value s
  | .slotHandover value => Sys2Proof.Machine.execSlotHandover value s
  | .slotRecall value => Sys2Proof.Machine.execSlotRecall value s
  | .lapBadCommand code => Sys2Proof.Machine.execLapBadCommand code s
  | .lapReadOnlyWrite address value => Sys2Proof.Machine.execLapReadOnlyWrite address value s
  | .transactionBegin => Sys2Proof.Machine.execTransactionBegin s
  | .transactionEnd => Sys2Proof.Machine.execTransactionEnd s

end Sys2Proof.Machine
end

