-- ==== Sys2Proof/WellFormed.lean ====
section
/-! DEFINITION. Which commands name an event the part can meet: the check a sender makes before it
queues a command. `exec` is total all the same: a command that fails a check acts as its meaning says. -/

namespace Sys2Proof

/-- The LAP words whose complete write is an event of their own (Table 11.2, Table 13.10): a write
anywhere else is a LAP_READ_ONLY_WRITE (R173, R187). -/
def lapWritable (address : Half) : Bool :=
  let n := address.toNat
  n == 0x0002 || n == 0x0003 || n == 0x0004 || n == 0x0010 || n == 0x0014 || n == 0x0015
    || n == 0x0018 || n == 0x0019 || (0x0020 ≤ n && n ≤ 0x0027) || (0x0200 ≤ n && n ≤ 0x02FF)

/-- A well-formed command. The checks: the count of a CREDIT is 1..63 (R15); the data of an ECHO is at
most the 255 bytes its count can name (R186); a bad LAP command byte is neither READ nor WRITE (R171);
a LAP_READ_ONLY_WRITE goes to a word that takes no write (R173, R187). -/
def Instr.wellFormed : Instr → Bool
  | .fullReset _ => true
  | .resetRelease => true
  | .lrstAssert => true
  | .lrstRelease => true
  | .lossOfSignal _ => true
  | .signalReturn _ => true
  | .rxSeek _ => true
  | .rxReady _ => true
  | .rxIdle _ => true
  | .rxCredit _ n => decide (1 ≤ n) && decide (n ≤ 63)
  | .rxSof _ => true
  | .rxDataSymbol _ _ => true
  | .rxEof _ => true
  | .rxAbort _ => true
  | .rxSymbolError _ => true
  | .txCredit _ => true
  | .txSof _ => true
  | .txDataSymbol _ => true
  | .txEof _ => true
  | .txAbort _ => true
  | .copyCompletion => true
  | .readWord _ => true
  | .writeWord _ _ => true
  | .modifyWord _ _ _ => true
  | .enableBClear => true
  | .enableBSet => true
  | .tableWrite _ _ => true
  | .tableRead _ _ => true
  | .tableInvalidate _ _ => true
  | .counterRead _ _ => true
  | .seqReset _ => true
  | .faultRead _ => true
  | .setNode _ => true
  | .echo data => decide (data.length ≤ 255)
  | .stationReset => true
  | .batchEnd => true
  | .stationResetApplied => true
  | .localReset _ => true
  | .localCauseWrite _ => true
  | .localEnableWrite _ => true
  | .noticeTake => true
  | .freeReturn _ => true
  | .bufSelectWrite _ => true
  | .bufDataRead _ => true
  | .slotHeaderWrite _ _ _ => true
  | .slotSelectWrite _ => true
  | .slotDataWrite _ _ => true
  | .slotHandover _ => true
  | .slotRecall _ => true
  | .lapBadCommand code => !(code == 0x01#8) && !(code == 0x02#8)
  | .lapReadOnlyWrite address _ => !lapWritable address
  | .transactionBegin => true
  | .transactionEnd => true

/-- The proposition form of the check. -/
abbrev Instr.WellFormed (i : Instr) : Prop := i.wellFormed = true

end Sys2Proof
end

