-- ==== Sys2Proof/Safety.lean ====
section
/-! DEFINITION. What is claimed of every run: the invariants of the part, each closed under every step by
itself or beside the credit accounts, and the words in which statements speak of a command's effect. -/

namespace Sys2Proof.Machine

/-! ## Line ports -/

/-- R23, with what keeps it: a frame is judged or charged only at its complete header, and not both. -/
def Port.AccountKept (P : Port) : Prop :=
  P.occupied + P.outstanding + P.unannounced = 40
    ∧ ∀ f ∈ P.rx, (f.count < 8 → f.judged = .unjudged ∧ f.charge = none)
      ∧ (f.judged ≠ .unjudged → f.charge = none)

def Device.AccountsKept (d : Device) : Prop := ∀ p, (d.port p).AccountKept

/-- R19, R26, R71: held is 0..63, an error run short of a link drop is under 8, a share counter is at
most 15. -/
def Device.CountsInRange (d : Device) : Prop :=
  ∀ p, (d.port p).held ≤ 63 ∧ (d.port p).errorRun < 8 ∧ (d.arbiter p).share ≤ 15

/-- R16: port A is never OFFLINE, and port B is exactly while ENABLE_B is 0. -/
def Device.LinksLegal (d : Device) : Prop :=
  d.ports.a.link ≠ .offline ∧ (d.ports.b.link = .offline ↔ d.enableB = false)

/-- R17, R20, R70, R75: a port that is not ONLINE receives no frame, holds and has granted no credit,
and its arbiter has nothing queued and nothing chosen. -/
def Device.DownPortsQuiet (d : Device) : Prop :=
  ∀ p, (d.port p).online = false →
    (d.port p).rx = none ∧ (d.port p).held = 0 ∧ (d.port p).outstanding = 0
      ∧ (d.arbiter p).queue = [] ∧ (d.arbiter p).chosen = none

def Transmitter.isSending : Transmitter → Bool
  | .sending _ _ => true
  | .between => false
  | .aborting _ _ => false

def Egress.isSending (a : Egress) : Bool := a.chosen.any Chosen.sending

/-- R72: a transmitter is inside a frame exactly while its arbiter's chosen frame is SENDING. -/
def Device.TransmittersFollow (d : Device) : Prop :=
  ∀ p, (d.port p).tx.isSending = (d.arbiter p).isSending

/-! ## Resident frames, references and work items -/

def ChosenFrame.reference : ChosenFrame → Option ForwardRef
  | .forward ref => some ref
  | .origin _ _ => none
  | .launch _ => none

/-- The references to frames that arrived at port `p`: chosen, then queued, at the opposite arbiter. -/
def Device.references (d : Device) (p : PortId) : List ForwardRef :=
  ((d.arbiter p.opposite).chosen.bind fun c => c.frame.reference).toList ++ (d.arbiter p.opposite).queue

def Device.referenceKeys (d : Device) (p : PortId) : List Nat := (d.references p).map ForwardRef.key

/-- The keys of the frames of port `p` whose copies have not completed. -/
def Device.workKeys (d : Device) (p : PortId) : List Nat :=
  (d.capture.work.filter fun w => w.port = p).map WorkItem.key

/-- R29: a frame in reception is charged the block count of its header. -/
def Device.ReceptionsCharged (d : Device) : Prop :=
  ∀ p, ∀ f ∈ (d.port p).rx, ∀ n, f.charge = some n → ∃ h, f.header = some h ∧ n = h.blocks

/-- R34, R35, R63, R86: a resident frame has a use and a block; its forward use is held by one
reference and its capture use by one work item, and these hold nothing else. -/
def Device.ResidentsUsed (d : Device) : Prop :=
  ∀ p,
    ((d.port p).residents.map Resident.key).Nodup
      ∧ (∀ r ∈ (d.port p).residents, r.inUse = true ∧ 1 ≤ r.blocks)
      ∧ (d.referenceKeys p).Nodup
      ∧ (∀ k, k ∈ d.referenceKeys p ↔ ∃ r ∈ (d.port p).residents, r.key = k ∧ r.forwardUse = true)
      ∧ (d.workKeys p).Nodup
      ∧ (∀ k, k ∈ d.workKeys p ↔ ∃ r ∈ (d.port p).residents, r.key = k ∧ r.captureUse = true)

/-! ## Steering table and control words -/

def Entry.WellFormed (e : Entry) : Prop :=
  aligned e.base e.order.val = true ∧ (e.translate = true → aligned e.newBase e.order.val = true)

/-- R39: every entry held in the table is well formed. -/
def Device.TableWellFormed (d : Device) : Prop := ∀ i : Fin 64, d.table.entries[i].WellFormed

def Channel.Configured (c : Channel) : Prop :=
  1 ≤ c.quota.toNat ∧ c.quota.toNat ≤ 32
    ∧ 16 ≤ c.clip.toNat ∧ c.clip.toNat ≤ 1024 ∧ c.clip.toNat % 16 = 0

/-- R73, R79: the fields that can be out of range are in range. -/
def Device.ControlInRange (d : Device) : Prop :=
  d.egressCtl.injectShare ≠ 0 ∧ ∀ c : Fin 8, (d.channel c).Configured

/-! ## Origin list, agent and alert -/

def Egress.chosenOrigin (a : Egress) : Option OriginKind :=
  a.chosen.bind fun c =>
    match c.frame with
    | .origin k _ => some k
    | .forward _ => none
    | .launch _ => none

/-- R66, R72: at most one entry of each kind; only the head can be chosen, and it is exactly when port
A's arbiter holds its frame. -/
def Device.OriginOrdered (d : Device) : Prop :=
  (d.origin.map fun e => e.body.kind).Nodup
    ∧ (∀ e ∈ d.origin.tail, e.chosen = false)
    ∧ (d.origin.head?.bind fun e => if e.chosen then some e.body.kind else none)
        = (d.arbiter .a).chosenOrigin
    ∧ (d.arbiter .b).chosenOrigin = none

/-- R123, R124, R145: at most two requests wait; a batch runs only with its request at the head and no
REPLY in the list; a request waits only behind a batch or a REPLY; and a station reset is due only while
the REPLY of its request waits, so no batch runs. -/
def Device.AgentInTurn (d : Device) : Prop :=
  d.agent.queue.length ≤ 2
    ∧ (d.agent.batch ≠ none → d.agent.queue ≠ [] ∧ d.hasOrigin .reply = false)
    ∧ (d.agent.batch = none → d.hasOrigin .reply = false → d.agent.queue = [])
    ∧ (d.agent.resetDue = true → d.agent.batch = none ∧ d.hasOrigin .reply = true)

/-- R168: an unchosen ALERT is pending, and a pending alert has its entry. -/
def Device.AlertFollowed (d : Device) : Prop :=
  (d.origin.any OriginEntry.waitingAlert = true → d.stats.alertPending = true)
    ∧ (d.stats.alertPending = true → d.hasOrigin .alert = true)

/-- The origin list with the two units that place entries in it. -/
def Device.OriginKept (d : Device) : Prop := d.OriginOrdered ∧ d.AgentInTurn ∧ d.AlertFollowed

/-- R125: the store is empty with LAST_TAG 0, or holds a reply under LAST_TAG, which is not 0. -/
def Agent.ReplayTagged (a : Agent) : Prop :=
  match a.replay with
  | none => a.lastTag = 0
  | some r => a.lastTag ≠ 0 ∧ r.tag = a.lastTag

/-- R3, R154: the node number is 0 or in 1..62. -/
def Agent.NodeLegal (a : Agent) : Prop := a.node.toNat ≤ 62

/-- R162, R163: OVERFLOW counts what came after the fault of a FILLED record, so an EMPTY one has 0. -/
def Stats.OverflowAgrees (x : Stats) : Prop := x.record = none → x.overflow = 0

/-! ## Capture unit -/

/-- R80, R88, R89, R92, R97: the free ring, the work list and the delivery queue hold each POOLED,
FILLING and POSTED buffer once and nothing else, and HELD counts a channel's buffers. -/
def Capture.PoolInCircuit (c : Capture) : Prop :=
  c.free.Nodup ∧ (c.work.map WorkItem.buffer).Nodup ∧ (c.delivery.map Notice.buffer).Nodup
    ∧ (∀ b : Fin 32, (c.buffers[b].state = .pooled ↔ b ∈ c.free)
        ∧ (c.buffers[b].state = .filling ↔ b ∈ c.work.map WorkItem.buffer)
        ∧ (c.buffers[b].state = .posted ↔ b ∈ c.delivery.map Notice.buffer))
    ∧ (∀ ch : Fin 8, c.channels[ch].held =
        (List.finRange 32).countP fun b =>
          c.buffers[b].state ≠ .pooled ∧ c.buffers[b].channel = ch)

/-- R86, R97: what a notice says of its lengths. -/
def Notice.LengthsAgree (n : Notice) : Prop :=
  n.capturedLength ≤ n.fullLength ∧ (n.clipped = true ↔ n.capturedLength < n.fullLength)

def Device.NoticesAgree (d : Device) : Prop :=
  (∀ w ∈ d.capture.work, (noticeOf w).LengthsAgree) ∧ (∀ n ∈ d.capture.delivery, n.LengthsAgree)
    ∧ ∀ n ∈ d.lap.latch, n.LengthsAgree

/-- Both byte memories are in canonical form. -/
def Device.MemoriesCanonical (d : Device) : Prop :=
  Memory.wf d.capture.mem ∧ Memory.wf d.launch.mem

/-! ## Launch unit -/

def ChosenFrame.isLaunch : ChosenFrame → Bool
  | .launch _ => true
  | .origin _ _ => false
  | .forward _ => false

def Egress.chosenLaunch (a : Egress) : Option Parity :=
  a.chosen.bind fun c =>
    match c.frame with
    | .launch k => some k
    | .origin _ _ => none
    | .forward _ => none

/-- R108, R109, R111 to R115: the slot an arbiter holds is the COMMITTED one; only the NEXT slot is
offered, under a port that is ONLINE and a node number, and it never waits unoffered. -/
def Device.LaunchInTurn (d : Device) : Prop :=
  ∀ p,
    (∀ k, (d.slot ⟨p, k⟩).owner = .committed ↔ (d.arbiter p).chosenLaunch = some k)
      ∧ (∀ k, (d.slot ⟨p, k⟩).offered ≠ none →
          k = d.nextParity p ∧ (d.slot ⟨p, k⟩).owner ≠ .free ∧ (d.port p).online = true)
      ∧ ((d.slot ⟨p, d.nextParity p⟩).owner ≠ .free → (d.slot ⟨p, d.nextParity p⟩).offered ≠ none)
      ∧ (∀ k, (d.slot ⟨p, k⟩).owner = .committed → (d.slot ⟨p, k⟩).offered ≠ none)
      ∧ (∀ k, (d.slot ⟨p, k⟩).owner ≠ .free → (d.slot ⟨p, k⟩).length.toNat ≤ 1024)
      ∧ ∀ k, ∀ o ∈ (d.slot ⟨p, k⟩).offered, o.source ≠ 0

/-! ## The words of the statements about single commands -/

/-- The part is not held by RESET (R1). -/
def Device.Live (d : Device) : Prop := d.pins.resetLow = false

/-- The next state in which the part is `d` and the same commands wait. -/
def State.nextWith (s : State) (d : Device) : Host.Outcome State Fault Refusal :=
  .next { s with dev := d }

/-- A live part whose port is ONLINE. -/
def Device.LiveOnline (d : Device) (p : PortId) : Prop := d.Live ∧ (d.port p).link = .online

/-- The word at `address` can be the next word event of the LAP: no transaction is open and LCS is high
(log 2), or the open transaction has come to it (R171, R172, R173). -/
def Device.WordDue (d : Device) (c : LapCommand) (address : Half) : Prop :=
  d.lapHeld = false
    ∧ ((d.lap.context = .idle ∧ d.pins.lcsLow = false) ∨ d.lap.context = .opened
      ∨ ∃ next pos, d.lap.context = .words c next pos ∧ continues c next address = true)

/-- Where the transaction stands after that word. -/
def LapContext.next (x : LapContext) (c : LapCommand) (address : Half) : LapContext :=
  if x = .idle then .idle else .words c (address + 1) 0

/-- `d` after a word event of a command whose effect gave `e`: the value on LDO and the context. -/
def Device.wordDone (d e : Device) (c : LapCommand) (address : Half) (ldo : Word) : Device :=
  e.onLap fun l => { l with ldo, context := d.lap.context.next c address }

/-- The running batch has come to the operation `o` (R129), with no station reset due (log 20). -/
def Device.AtOperation (d : Device) (b : Batch) (o : Op) : Prop :=
  d.Live ∧ d.agent.batch = some b ∧ b.failed = false ∧ b.waiting.head? = some o
    ∧ d.agent.resetDue = false

/-- The part `e` with the result of `o` joined to the batch `b` (R130). -/
def Device.withResult (e : Device) (b : Batch) (o : Op) (st : OpStatus) (data : List Byte) : Device :=
  let results := b.results ++ [{ code := Op.code o, status := st, data }]
  e.onAgent fun a =>
    { a with batch := some { waiting := b.waiting.tail, results, failed := st ≠ .ok } }

/-- The command of an operation. -/
def Op.command : Op → Instr
  | .readWord a => .readWord a
  | .writeWord a v => .writeWord a v
  | .modifyWord a v m => .modifyWord a v m
  | .tableWrite i f => .tableWrite i f
  | .tableRead i c => .tableRead i c
  | .tableInvalidate f n => .tableInvalidate f n
  | .counterRead i c => .counterRead i c
  | .seqReset c => .seqReset c
  | .faultRead c => .faultRead c
  | .setNode n => .setNode n
  | .echo data => .echo data
  | .stationReset => .stationReset

/-- R13, R28: what one more byte makes of an undamaged frame in reception: a header byte is kept, a later
byte of a charged frame is stored up to the frame's size, and the byte moves through the last four into
the check. -/
def RxFrame.withByte (f : RxFrame) (b : Byte) : RxFrame :=
  { f with
    count := f.count + 1
    headerBytes := if f.count < 8 then f.headerBytes ++ [b] else f.headerBytes
    stored :=
      if 8 ≤ f.count ∧ f.charge.isSome ∧ f.header.any (fun h => f.count < 12 + h.length.toNat) then
        f.stored ++ [b]
      else f.stored
    check := match f.lastFour with
      | [oldest, _, _, _] => checkByte f.check oldest
      | _ => f.check
    lastFour := if f.lastFour.length = 4 then f.lastFour.tail ++ [b] else f.lastFour ++ [b] }

/-- What the end of the frame `f` in reception does to the counts of its port (R31, R33): a charge goes
to unannounced, an uncharged frame is settled by 64 byte positions to the block. -/
def Port.FrameClosed (f : RxFrame) (P Q : Port) : Prop :=
  (match f.charge with
    | some n => Q.outstanding = P.outstanding ∧ Q.unannounced = P.unannounced + n
    | none =>
      Q.outstanding = P.outstanding - min ((f.count + 63) / 64) P.outstanding
        ∧ Q.unannounced = P.unannounced + min ((f.count + 63) / 64) P.outstanding)
    ∧ Q.link = P.link ∧ Q.readySent = P.readySent ∧ Q.errorRun = 0 ∧ Q.residents = P.residents
    ∧ Q.held = P.held ∧ Q.tx = P.tx ∧ Q.lastSent = P.lastSent

/-- A resident frame once the references of `keys` are gone. -/
def Resident.lessForwards (keys : List Nat) (r : Resident) : Resident :=
  if r.key ∈ keys then { r with forwardUse := false } else r

/-- Every reference of `keys` to a frame of the port is gone: its forward use has ended, and a frame left
without a use is released, its blocks going to unannounced (R34). -/
def Port.ForwardsEnded (keys : List Nat) (P Q : Port) : Prop :=
  let ended := P.residents.map (Resident.lessForwards keys)
  (keys = [] → Q = P)
    ∧ (keys ≠ [] → Q = { P with
        residents := ended.filter fun r => r.forwardUse || r.captureUse
        unannounced := P.unannounced
          + blocksOf (ended.filter fun r => !(r.forwardUse || r.captureUse)) })

/-- R116: what a completion with status `st` sets in a slot. -/
def Slot.completed (s : Slot) (st : SlotStatus) : Slot :=
  { s with status := st, owner := .free, offered := none }

/-- R116: `e` is `d` after the completion of slot `k` with status `st`, which is SENT, LINK_DOWN or
UNNUMBERED. -/
def Device.SlotCompleted (d e : Device) (k : SlotId) (st : SlotStatus) : Prop :=
  (∀ j, e.slot j = if j = k then (d.slot k).completed st else d.slot j)
    ∧ e.launch.mem = d.launch.mem
    ∧ e.launch.next = d.launch.next.set k.port k.parity.other
    ∧ e.launch.txSeq =
        (if st = .sent ∧ (d.slot k).seqMode = .auto then
          d.launch.txSeq.set k.port (!d.launch.txSeq.get k.port)
        else d.launch.txSeq)
    ∧ e.lap = { d.lap with launchDone := true }
    ∧ (∀ c, e.counter c =
        if c = (if st = .sent then .launched else .launchFailed) then saturatingSucc (d.counter c)
        else d.counter c)
    ∧ e = { d with launch := e.launch, lap := e.lap
                   stats := { d.stats with counters := e.stats.counters } }

/-- R117: the slots of port `p` as it leaves ONLINE. NEXT completes LINK_DOWN if it is with the part, and
then so does the other if it waits. -/
def Device.SlotsDown (d e : Device) (p : PortId) : Prop :=
  let k := d.nextParity p
  let other := d.slot ⟨p, k.other⟩
  let both := other.owner = .waiting ∧ other.offered = none
  ((d.slot ⟨p, k⟩).owner = .free → e.launch = d.launch ∧ e.lap = d.lap
      ∧ e.counter .launchFailed = d.counter .launchFailed)
    ∧ ((d.slot ⟨p, k⟩).owner ≠ .free →
      e.slot ⟨p, k⟩ = (d.slot ⟨p, k⟩).completed .linkDown
        ∧ e.slot ⟨p, k.other⟩ = (if both then other.completed .linkDown else other)
        ∧ (∀ j, e.slot ⟨p.opposite, j⟩ = d.slot ⟨p.opposite, j⟩)
        ∧ e.launch.mem = d.launch.mem ∧ e.launch.txSeq = d.launch.txSeq
        ∧ e.launch.next = d.launch.next.set p (if both then k else k.other)
        ∧ e.lap = { d.lap with launchDone := true }
        ∧ (e.counter .launchFailed).toNat =
            min 4294967295 ((d.counter .launchFailed).toNat + if both then 2 else 1))

/-- R75, R76, R117: the egress side of port `p` as it leaves ONLINE. Each reference, chosen or queued, is
dropped and counted; a chosen frame of the origin list returns unchosen, an ENUM-RET with its new
content (R67) and an ALERT pending again (R168); and nothing else changes. -/
def Device.EgressEmptied (d e : Device) (p : PortId) : Prop :=
  let keys := d.referenceKeys p.opposite
  let returned := fun x : OriginEntry =>
    if x.chosen then
      match x.body with
      | .enumRet f _ => { body := .enumRet f false, chosen := false }
      | .reply _ | .alert => { x with chosen := false }
    else x
  e.arbiter p = { queue := [], share := (d.arbiter p).share, chosen := none }
    ∧ e.arbiter p.opposite = d.arbiter p.opposite
    ∧ (d.port p.opposite).ForwardsEnded keys (e.port p.opposite)
    ∧ (e.counter (.port p .egressDropped)).toNat =
        min 4294967295 ((d.counter (.port p .egressDropped)).toNat + keys.length)
    ∧ (∀ c, c ≠ .port p .egressDropped → c ≠ .launchFailed → e.counter c = d.counter c)
    ∧ ((d.arbiter p).chosenOrigin = none → e.origin = d.origin)
    ∧ ((d.arbiter p).chosenOrigin ≠ none → e.origin = d.origin.map returned)
    ∧ e.stats = { d.stats with
        counters := e.stats.counters
        alertPending := d.stats.alertPending || (d.arbiter p).chosenOrigin = some .alert }
    ∧ d.SlotsDown e p
    ∧ e = { d with ports := e.ports, egress := e.egress, origin := e.origin, launch := e.launch
                   stats := e.stats, lap := e.lap }

/-- R19, R20, R75: what an event that drops the link of port `p` makes of the part `d`: the port and its
egress side, then LINK_DROPS and its fault, and last the arbiters' choice. -/
def Device.LinkDropped (d e : Device) (p : PortId) : Prop :=
  ∃ m, d.EgressEmptied m p
    ∧ m.port p =
      { d.port p with
        link := .seeking, readySent := false, errorRun := 0, rx := none, held := 0, outstanding := 0
        unannounced := (d.port p).unannounced + (d.port p).charged + (d.port p).outstanding
        tx := .between }
    ∧ e = arbitrate ((m.count (.port p .linkDrops)).report
        { kind := .linkDrop, port := some p, frame := none, channel := none, buffer := none })

/-- R106, R121, R184, R77: what a local reset sets and what it keeps, before the arbiters' choice. The
copy in progress has moved some first bytes of its item (R93; log 6); the capture uses end (R38); a
chosen launched frame is withdrawn, or aborted if it is being sent. -/
def Device.LocallyReset (d e : Device) : Prop :=
  (e.capture.work = [] ∧ e.capture.delivery = [] ∧ e.capture.free = List.finRange 32
    ∧ (∀ b, e.buffer b = { d.buffer b with state := .pooled })
    ∧ (∀ c, e.channel c = { d.channel c with held := 0, starved := false })
    ∧ (d.capture.work = [] → e.capture.mem = d.capture.mem)
    ∧ (∀ w rest, d.capture.work = w :: rest → ∃ n ≤ w.capturedLength,
        e.capture.mem = Memory.writeBytes d.capture.mem (1024 * w.buffer.val)
          (((((d.port w.port).findResident w.key).map fun r => r.frame.payload).getD []).take n)))
    ∧ ((∀ k, e.slot k = { d.slot k with owner := .free, status := .none, offered := none })
      ∧ e.launch.mem = d.launch.mem ∧ e.launch.next = ⟨.even, .even⟩
      ∧ e.launch.txSeq = ⟨false, false⟩)
    ∧ e.lap = { d.lap with
        launchDone := false, starvation := false, accessFault := false, nodeChanged := false
        enables := 0, latch := none }
    ∧ e.latt = false
    ∧ (∀ p, e.port p = { d.port p with
          residents := ((d.port p).residents.filter fun r => r.forwardUse).map fun r =>
            { r with captureUse := false }
          unannounced := (d.port p).unannounced
            + blocksOf ((d.port p).residents.filter fun r => !r.forwardUse)
          tx := if (d.arbiter p).chosen.any (fun c => c.frame.isLaunch && c.sending) then
              abortTransmission (d.port p).tx
            else (d.port p).tx }
        ∧ e.arbiter p = { d.arbiter p with
          chosen := (d.arbiter p).chosen.filter fun c => !c.frame.isLaunch })
    ∧ e.table = d.table ∧ e.egressCtl = d.egressCtl ∧ e.enableB = d.enableB ∧ e.agent = d.agent
    ∧ e.origin = d.origin ∧ e.stats = d.stats ∧ e.pins = d.pins

/-! ## Operation records -/

/-- Table 13.4: the seven bytes are an entry form; bit 3 of the first is free (R186). -/
def EntryForm.LaidOut (f : EntryForm) (bytes : List Byte) : Prop :=
  ∃ spare : BitVec 1,
    bytes =
      [BitVec.ofBool f.valid ++ BitVec.ofBool f.translate ++ f.applies ++ spare ++ f.action, f.order,
        f.base.extractLsb' 8 8, f.base.extractLsb' 0 8, f.newBase.extractLsb' 8 8,
        f.newBase.extractLsb' 0 8, f.channel]

/-- R127, R186, Table 13.3: the bytes are a record of the operation. A clear flag is any byte that is 0
exactly when the flag is clear. -/
def Op.LaidOut (o : Op) (bytes : List Byte) : Prop :=
  match o with
  | .readWord a => bytes = [0x01, a]
  | .writeWord a v => bytes = 0x02 :: a :: wordBytes v
  | .modifyWord a v m => bytes = 0x03 :: a :: (wordBytes v ++ wordBytes m)
  | .tableWrite i f => ∃ form, EntryForm.LaidOut f form ∧ bytes = 0x04 :: i :: form
  | .tableRead i c => ∃ flag : Byte, bytes = [0x05, i, flag] ∧ (c = true ↔ flag ≠ 0)
  | .tableInvalidate f n => bytes = [0x06, f, n]
  | .counterRead i c => ∃ flag : Byte, bytes = [0x07, i, flag] ∧ (c = true ↔ flag ≠ 0)
  | .seqReset c => bytes = [0x08, c]
  | .faultRead c => ∃ flag : Byte, bytes = [0x09, flag] ∧ (c = true ↔ flag ≠ 0)
  | .setNode n => bytes = [0x0A, n]
  | .echo data => ∃ n : Byte, n.toNat = data.length ∧ bytes = 0x0B :: n :: data
  | .stationReset => bytes = [0x0C]

/-- R127: the operation records of a payload, laid end to end. -/
def Op.listLaidOut : List Op → List Byte → Prop
  | [], payload => payload = []
  | o :: ops, payload =>
    ∃ record rest, Op.LaidOut o record ∧ Op.listLaidOut ops rest ∧ payload = record ++ rest

/-- The part with the next symbols of port `p` sent and its transmitter at `tx`. -/
def Device.sent (d : Device) (p : PortId) (tx : Transmitter) (symbols : List LineSymbol) : Device :=
  d.onPort p fun P => { P with tx, lastSent := symbols }

end Sys2Proof.Machine
end

