-- ==== Sys2Proof/Certificates/Slice0/Obligations.lean ====
section
/-! DEFINITION. The statements for the provers. -/

open Sys2Proof Sys2Proof.Machine

/-! ## The command queue and the resets -/

/-- The front command runs on the part with the queue's rest (log 4). -/
def Obligations.StepRunsTheFrontCommand : Prop :=
  ∀ (s : State) (c : Instr) (rest : List Instr), s.pending = c :: rest →
    step s = exec c { s with pending := rest }

/-- Every command answers a next state and leaves the queue; an empty queue idles (log 4). -/
def Obligations.EveryCommandAnswersNext : Prop :=
  (∀ (i : Instr) (s : State), ∃ d, exec i s = s.nextWith d)
    ∧ ∀ s : State, s.pending = [] → step s = .next s

/-- Tables 13.8 and 13.10 after a full reset, and the value of every field but the count of free values.
That the bits of no field in the LAP words read as 0 is the model's choice (log 26), and so are the input
pins (log 12), the symbols last sent (log 13) and LDO (log 14). -/
def Obligations.WordsReadAtReset : Prop :=
  readControl Device.reset .ident = 0x5C300216 ∧ readControl Device.reset .revision = 0x00000001
    ∧ readControl Device.reset .node = 0 ∧ readControl Device.reset .portCtl = 0x00000001
    ∧ readControl Device.reset .portState = 0x00010001
    ∧ readControl Device.reset .defaultAction = 0 ∧ readControl Device.reset .egressCtl = 0x00003F04
    ∧ readControl Device.reset .faultMask = 0x00000F6F ∧ readControl Device.reset .alertCtl = 0
    ∧ readControl Device.reset .poolState = 0x00000020
    ∧ (∀ c, readControl Device.reset (.channelCfg c) = 0x04000800)
    ∧ (∀ c, readControl Device.reset (.channelState c) = 0)
    ∧ (∀ c, Device.reset.counter c = 0)
    ∧ (lapRead .localIdent Device.reset).1 = 0x5C302161
    ∧ (lapRead .localStatus Device.reset).1 = 0x00200500
    ∧ (lapRead .localCause Device.reset).1 = 0 ∧ (lapRead .localEnable Device.reset).1 = 0
    ∧ (∀ i, (lapRead (.latchWord i) Device.reset).1 = 0)
    ∧ (lapRead .bufSelect Device.reset).1 = 0 ∧ (lapRead .slotSelect Device.reset).1 = 0
    ∧ (∀ k w, (lapRead (.slotHeader k w) Device.reset).1 = 0)
    ∧ (∀ i, (lapRead (.slotData i) Device.reset).1 = 0)
    ∧ Device.reset.latt = false
    ∧ (∀ p, Device.reset.port p =
        { link := .seeking, readySent := false, errorRun := 0, rx := none, residents := [], held := 0
          outstanding := 0, unannounced := 40, tx := .between, lastSent := [] }
      ∧ Device.reset.arbiter p = { queue := [], share := 0, chosen := none })
    ∧ Device.reset.enableB = true ∧ Device.reset.origin = []
    ∧ Device.reset.egressCtl = { injectShare := 4, injectHops := 63 }
    ∧ (∀ i : Fin 64, Device.reset.table.entries[i] =
        { valid := false, base := 0, order := 0, applies := .both, action := .forward
          translate := false, newBase := 0, channel := 0, hits := 0 })
    ∧ Device.reset.table.discardDown = false ∧ Device.reset.table.discardUp = false
    ∧ (∀ c, Device.reset.channel c =
        { enabled := false, seqCheck := false, quota := 8, clip := 1024
          expect := false, held := 0, starved := false })
    ∧ (∀ b, Device.reset.buffer b = { state := .pooled, channel := 0 })
    ∧ Device.reset.capture.mem = [] ∧ Device.reset.capture.free = List.finRange 32
    ∧ Device.reset.capture.work = [] ∧ Device.reset.capture.delivery = []
    ∧ (∀ k, Device.reset.slot k =
        { owner := .free, label := 0, length := 0, seqMode := .auto, status := .none, offered := none })
    ∧ Device.reset.launch.mem = [] ∧ Device.reset.launch.next = ⟨.even, .even⟩
    ∧ Device.reset.launch.txSeq = ⟨false, false⟩
    ∧ Device.reset.agent =
        { queue := [], batch := none, lastTag := 0, replay := none, node := 0, resetDue := false }
    ∧ Device.reset.stats =
        { counters := Vector.replicate 82 0, record := none, overflow := 0, mask := 0xF6F
          alertEnable := false, alertPending := false }
    ∧ Device.reset.lap =
        { context := .idle, launchDone := false, starvation := false, accessFault := false
          nodeChanged := false, enables := 0, latch := none, bufSelect := 0
          slotSelect := ⟨.a, .even⟩, ldo := 0 }
    ∧ Device.reset.pins =
        { resetLow := false, lrstLow := false, lcsLow := false, signal := ⟨true, true⟩ }

/-- R1, R184: FULL_RESET puts every block at its full-reset value; the other pin levels stay (log 12), the
count of free values goes on (log 15), and `high` says that power came up with RESET high (log 21).
RESET_RELEASE and LRST_RELEASE end a hold and do no more. -/
def Obligations.FullResetAndReleases : Prop :=
  ∀ s : State,
    (∀ high, exec (.fullReset high) s = s.nextWith
        ({ Device.reset with
          pins := { s.dev.pins with resetLow := !high }, choices := s.dev.choices }))
      ∧ exec .resetRelease s =
          s.nextWith ({ s.dev with pins := { s.dev.pins with resetLow := false } })
      ∧ exec .lrstRelease s =
          s.nextWith ({ s.dev with pins := { s.dev.pins with lrstLow := false } })

/-- R1: while RESET is low no command but those of the RESET pin changes more than a pin level, which no
reset fixes (log 12). -/
def Obligations.HeldPartTakesNoEvent : Prop :=
  ∀ (s : State) (i : Instr), s.dev.pins.resetLow = true →
    (∀ high, i ≠ .fullReset high) → i ≠ .resetRelease →
    ∃ pins, exec i s = s.nextWith ({ s.dev with pins }) ∧ pins.resetLow = true

/-- R77, R106, R121, R184: LRST_ASSERT and LOCAL_RESET reset the three blocks, and then the arbiters
choose. The first ends a transaction, the second has the rest of its own ignored. How far a copy in
progress had come is free (log 6). -/
def Obligations.LocalResetReachesThreeBlocks : Prop :=
  ∀ s : State,
    (s.dev.pins.lrstLow = true → exec .lrstAssert s = .next s)
    ∧ (s.dev.Live → s.dev.pins.lrstLow = false →
      let d := { s.dev with
        pins := { s.dev.pins with lrstLow := true }
        lap := { s.dev.lap with context := .idle, ldo := 0 } }
      ∃ m, d.LocallyReset m ∧ exec .lrstAssert s = s.nextWith (arbitrate m))
    ∧ (s.dev.WordDue .write 0x0004 → ∀ value,
      ∃ m, s.dev.LocallyReset m ∧ exec (.localReset value) s = s.nextWith
        ((arbitrate m).onLap fun l =>
          { l with ldo := 0, context := if s.dev.lap.context = .idle then .idle else .ignored }))

/-! ## The link -/

/-- R17, R18: the seek of a SEEKING port. The READY that takes it ONLINE is followed by the closing
READY and a CREDIT for all of unannounced, and by the arbiters' choice (R70). That both symbols are part
of RX_READY, and that both wait for an ABORT still owed, is the model's reading (log 8); that ready sent
is set and the port goes ONLINE while that ABORT is owed is its choice (log 27). -/
def Obligations.SeekHandshake : Prop :=
  (∀ (p : PortId) (v : Bool) (d : Device), d.setSignal p v =
    { d with pins := { d.pins with signal := d.pins.signal.set p v } })
  ∧ ∀ (s : State) (p : PortId), s.dev.Live → (s.dev.port p).link = .seeking →
    exec (.rxSeek p) s = s.nextWith (s.dev.onPort p fun P => { P with readySent := true })
    ∧ ((s.dev.port p).readySent = false →
        exec (.rxReady p) s =
          s.nextWith (s.dev.onPort p fun P => { P with readySent := true }))
    ∧ ((s.dev.port p).readySent = true → (s.dev.port p).tx = .between →
        exec (.rxReady p) s = s.nextWith (arbitrate (s.dev.onPort p fun P =>
          { P with
            link := .online, errorRun := 0
            outstanding := P.outstanding + P.unannounced, unannounced := 0
            lastSent := if P.unannounced = 0 then [.ready] else [.ready, .credit P.unannounced] })))
    ∧ (∀ owed closing, (s.dev.port p).readySent = true →
        (s.dev.port p).tx = .aborting owed closing →
        exec (.rxReady p) s = s.nextWith (arbitrate (s.dev.onPort p fun P =>
          { P with link := .online, errorRun := 0, tx := .aborting owed true })))
    ∧ exec (.lossOfSignal p) s = s.nextWith
        ((s.dev.setSignal p false).onPort p fun P => { P with readySent := false })
    ∧ exec (.signalReturn p) s = s.nextWith (s.dev.setSignal p true)

/-- R19, R20, R75, R117: loss of signal, SEEK and the eighth symbol error in a row each drop an ONLINE
link, with its egress side and its slots. -/
def Obligations.LinkDropTakesThePortDown : Prop :=
  ∀ (s : State) (p : PortId), s.dev.LiveOnline p →
    (∃ e, exec (.lossOfSignal p) s = s.nextWith e ∧ (s.dev.setSignal p false).LinkDropped e p)
    ∧ (∃ e, exec (.rxSeek p) s = s.nextWith e ∧ s.dev.LinkDropped e p)
    ∧ ((s.dev.port p).errorRun = 7 →
        ∃ e, exec (.rxSymbolError p) s = s.nextWith e ∧ s.dev.LinkDropped e p)

/-- R21, R22, R36 (3), R76, R117: the two writes of ENABLE_B at port B (log 9). A frame being sent is
closed with ABORT, after the rest of its header bytes. -/
def Obligations.EnableBSwitchesPortB : Prop :=
  ∀ s : State, s.dev.Live →
    ((s.dev.port .b).link = .offline → exec .enableBSet s = s.nextWith
        ({ s.dev with enableB := true }.onPort .b fun P =>
          { P with link := .seeking, readySent := false }))
    ∧ ((s.dev.port .b).link ≠ .offline →
        exec .enableBSet s = s.nextWith ({ s.dev with enableB := true }))
    ∧ ((s.dev.port .b).link = .offline →
        exec .enableBClear s = s.nextWith ({ s.dev with enableB := false }))
    ∧ ((s.dev.port .b).link = .seeking → exec .enableBClear s = s.nextWith
        ({ s.dev with enableB := false }.onPort .b fun P => { P with link := .offline }))
    ∧ ((s.dev.port .b).link = .online →
        ∃ e, exec .enableBClear s = s.nextWith e
          ∧ { s.dev with enableB := false }.EgressEmptied e .b
          ∧ e.port .b =
              { s.dev.port .b with
                link := .offline, errorRun := 0, rx := none, held := 0, outstanding := 0
                unannounced := (s.dev.port .b).unannounced + (s.dev.port .b).charged
                  + (s.dev.port .b).outstanding
                tx := abortTransmission (s.dev.port .b).tx })
    ∧ abortTransmission .between = .between
    ∧ (∀ rest sent, abortTransmission (.sending rest sent) = .aborting (rest.take (8 - sent)) false)
    ∧ ∀ owed closing, abortTransmission (.aborting owed closing) = .aborting owed false

/-! ## Reception -/

/-- R25: CREDIT on an ONLINE port, between frames or inside one. -/
def Obligations.CreditReceived : Prop :=
  ∀ (s : State) (p : PortId) (n : Nat), s.dev.LiveOnline p → 1 ≤ n → n ≤ 63 →
    ((s.dev.port p).held + n ≤ 63 → exec (.rxCredit p n) s = s.nextWith
        (s.dev.onPort p fun P => { P with held := P.held + n, errorRun := 0 }))
    ∧ (63 < (s.dev.port p).held + n → exec (.rxCredit p n) s = s.nextWith
        (arbitrate (((s.dev.onPort p fun P => { P with held := 63, errorRun := 0 }).count
          (.port p .creditOverrun)).report
            { kind := .creditOverrun, port := some p, frame := none, channel := none, buffer := none })))

/-- R16, R18, R27: symbols between frames, and those a port that is not ONLINE ignores, which at an OFFLINE
port is every symbol and every change of signal but for the recorded level (log 12). A frame begins with
nothing received, undamaged, not judged, not charged and the check at its preset (R13). -/
def Obligations.SymbolsBetweenFrames : Prop :=
  ∀ (s : State) (p : PortId) (byte : Byte) (n : Nat), s.dev.Live →
    ((s.dev.port p).link = .online → (s.dev.port p).rx = none →
      (∀ i ∈ [Instr.rxIdle p, .rxReady p, .rxEof p, .rxAbort p, .rxDataSymbol p byte],
        exec i s = s.nextWith (s.dev.onPort p fun P => { P with errorRun := 0 }))
      ∧ exec (.rxSof p) s = s.nextWith
          (s.dev.onPort p fun P => { P with errorRun := 0, rx := some RxFrame.fresh })
      ∧ ((s.dev.port p).errorRun < 7 → exec (.rxSymbolError p) s = s.nextWith
          (s.dev.onPort p fun P => { P with errorRun := P.errorRun + 1 })))
    ∧ ((s.dev.port p).link ≠ .online →
      ∀ i ∈ [Instr.rxIdle p, .rxCredit p n, .rxSof p, .rxEof p, .rxAbort p, .rxDataSymbol p byte,
          .rxSymbolError p],
        exec i s = .next s)
    ∧ ((s.dev.port p).link = .offline →
      exec (.rxSeek p) s = .next s ∧ exec (.rxReady p) s = .next s
        ∧ exec (.lossOfSignal p) s = s.nextWith
            ({ s.dev with pins := { s.dev.pins with signal := s.dev.pins.signal.set p false } }))
    ∧ exec (.signalReturn p) s = s.nextWith
        ({ s.dev with pins := { s.dev.pins with signal := s.dev.pins.signal.set p true } })
    ∧ RxFrame.fresh =
        { count := 0, damaged := false, judged := .unjudged, charge := none, headerBytes := []
          header := none, stored := [], check := 0xFFFFFFFF, lastFour := [] }

/-- R13 (2), (3), R28: a byte position other than the eighth, and what the check makes of a byte. -/
def Obligations.BytePositionFilled : Prop :=
  (∀ (s : State) (p : PortId) (f : RxFrame) (b : Byte),
    s.dev.LiveOnline p → (s.dev.port p).rx = some f → f.count + 1 ≠ 8 →
    (f.damaged = false → exec (.rxDataSymbol p b) s = s.nextWith
        (s.dev.onPort p fun P => { P with errorRun := 0, rx := some (f.withByte b) }))
    ∧ (f.damaged = true → exec (.rxDataSymbol p b) s = s.nextWith
        (s.dev.onPort p fun P =>
          { P with errorRun := 0, rx := some { f with count := f.count + 1 } }))
    ∧ ((s.dev.port p).errorRun < 7 →
      exec (.rxSymbolError p) s = s.nextWith (s.dev.onPort p fun P =>
        { P with errorRun := P.errorRun + 1
                 rx := some { f with count := f.count + 1, damaged := true } })))
    ∧ ∀ (register : Word) (b : Byte), checkByte register b =
        (List.range 8).foldl (fun (r : Word) (i : Nat) =>
          if r.getLsbD 31 != b.getLsbD i then (r <<< 1) ^^^ 0x04C11DB7#32 else r <<< 1) register

/-- R29, R30: the eighth byte position completes the header, and the first step that applies decides. A
frame damaged by then, or by a symbol error in that position, has no header to judge. The fields of the
eight bytes are those of Table 13.1, the checks those of R5, R6, R8, R9 and R10, the blocks those of R12. -/
def Obligations.HeaderJudged : Prop :=
  (∀ b0 b1 b2 b3 b4 b5 b6 b7 : Byte, decodeHeader [b0, b1, b2, b3, b4, b5, b6, b7] = some
      { kind := b0.extractLsb' 4 4, seq := b0.getLsbD 3, spareSeq := b0.extractLsb' 0 3
        spareHops := b1.extractLsb' 6 2, hops := b1.extractLsb' 0 6, label := b2 ++ b3
        length := b4 ++ b5, source := b6, tag := b7 })
  ∧ (∀ h : Header, h.wellFormed = true ↔
      (1 ≤ h.kind.toNat ∧ h.kind.toNat ≤ 6) ∧ (h.spareSeq = 0 ∧ h.spareHops = 0)
        ∧ (h.kind = 2 → h.label.toNat < 64) ∧ h.length.toNat ≤ 1024 ∧ h.source.toNat ≤ 62)
  ∧ (∀ n : Nat, blockCount n = (12 + n + 63) / 64)
  ∧ (∀ h : Header, h.blocks = (12 + h.length.toNat + 63) / 64)
  ∧ ∀ (s : State) (p : PortId) (f : RxFrame) (b : Byte),
    s.dev.LiveOnline p → (s.dev.port p).rx = some f → f.count = 7 →
    (f.damaged = true → exec (.rxDataSymbol p b) s = s.nextWith
        (s.dev.onPort p fun P => { P with errorRun := 0, rx := some { f with count := 8 } }))
    ∧ ((s.dev.port p).errorRun < 7 → exec (.rxSymbolError p) s = s.nextWith
        (s.dev.onPort p fun P =>
          { P with errorRun := P.errorRun + 1, rx := some { f with count := 8, damaged := true } }))
    ∧ (∀ h, f.damaged = false → decodeHeader (f.headerBytes ++ [b]) = some h →
      let g := { f.withByte b with header := some h }
      (h.wellFormed = false → exec (.rxDataSymbol p b) s = s.nextWith (arbitrate
          (((s.dev.onPort p fun P =>
              { P with errorRun := 0, rx := some { g with judged := .formatError } }).count
            (.port p .formatErr)).report (portFault .format p (some h)))))
        ∧ (h.wellFormed = true → (s.dev.port p).outstanding < h.blocks →
            exec (.rxDataSymbol p b) s = s.nextWith (arbitrate
              (((s.dev.onPort p fun P =>
                  { P with errorRun := 0, rx := some { g with judged := .creditViolation }
                           outstanding := 0, unannounced := P.unannounced + P.outstanding }).count
                (.port p .creditViolation)).report (portFault .creditViolation p (some h)))))
        ∧ (h.wellFormed = true → h.blocks ≤ (s.dev.port p).outstanding →
            exec (.rxDataSymbol p b) s = s.nextWith (s.dev.onPort p fun P =>
              { P with errorRun := 0, rx := some { g with charge := some h.blocks }
                       outstanding := P.outstanding - h.blocks })))

/-- R31, R33 to R35, R57: the EOF of a frame. A good frame arrives: it is counted, becomes resident with
its blocks under a key of its own (log 16) and is dispatched, and a frame left without a use is
released, its blocks going to unannounced. -/
def Obligations.EofJudgesFrame : Prop :=
  (∀ rs : List Resident, blocksOf rs = (rs.map Resident.blocks).sum)
  ∧ ∀ (s : State) (p : PortId) (f : RxFrame), s.dev.LiveOnline p → (s.dev.port p).rx = some f →
    let crc := f.damaged = true ∨ (8 ≤ f.count ∧ f.lastFour ≠ wordBytes (~~~ f.check))
    let failed := fun (Q : Port) c k => s.nextWith (arbitrate
      (((s.dev.onPort p fun _ => Q).count (.port p c)).report (portFault k p f.header)))
    (f.judged = .unjudged → crc →
      ∃ Q, exec (.rxEof p) s = failed Q .crcErr .crc ∧ Q.rx = none
        ∧ (s.dev.port p).FrameClosed f Q)
    ∧ (f.judged = .unjudged → ¬crc →
        (∀ h n, f.header = some h → f.charge = some n → f.count ≠ 12 + h.length.toNat) →
      ∃ Q, exec (.rxEof p) s = failed Q .formatErr .format ∧ Q.rx = none
        ∧ (s.dev.port p).FrameClosed f Q)
    ∧ (∀ h n, f.judged = .unjudged → ¬crc → f.header = some h → f.charge = some n →
        f.count = 12 + h.length.toNat →
      ∃ key, (∀ r ∈ (s.dev.port p).residents, r.key ≠ key) ∧
        let frame : Frame := { header := h, payload := f.stored.take h.length.toNat }
        let arrived : Resident :=
          { key, frame, blocks := n, forwardUse := false, captureUse := false }
        let d := (s.dev.count (.port p .framesIn)).onPort p fun P =>
          { P with errorRun := 0, rx := none, residents := P.residents ++ [arrived] }
        let used := fun r : Resident => r.forwardUse || r.captureUse
        exec (.rxEof p) s = s.nextWith (arbitrate ((dispatch p key frame d).onPort p fun P =>
          { P with residents := P.residents.filter used
                   unannounced := P.unannounced + blocksOf (P.residents.filter fun r => !used r) })))
    ∧ (f.judged = .creditViolation → exec (.rxEof p) s = s.nextWith
        (s.dev.onPort p fun P => { P with errorRun := 0, rx := none }))
    ∧ (f.judged = .formatError → ∃ Q,
      exec (.rxEof p) s = s.nextWith (s.dev.onPort p fun _ => Q)
        ∧ Q.rx = none ∧ (s.dev.port p).FrameClosed f Q)

/-- R31, R32, R33: a frame that ABORT, IDLE, READY or SOF ends. One judged before its end is only
settled, or, after a credit violation, only closed. -/
def Obligations.FrameEndedEarly : Prop :=
  ∀ (s : State) (p : PortId) (f : RxFrame), s.dev.LiveOnline p → (s.dev.port p).rx = some f →
    let begun := fun d : Device => d.onPort p fun P => { P with rx := some RxFrame.fresh }
    (f.judged = .unjudged → ∃ Q : Port, Q.rx = none ∧ (s.dev.port p).FrameClosed f Q
      ∧ (let closed := s.dev.onPort p fun _ => Q
        let failed := arbitrate ((closed.count (.port p .formatErr)).report
          (portFault .format p f.header))
        exec (.rxAbort p) s = s.nextWith (closed.count (.port p .abortedIn))
          ∧ exec (.rxIdle p) s = s.nextWith failed ∧ exec (.rxReady p) s = s.nextWith failed
          ∧ exec (.rxSof p) s = s.nextWith (begun failed)))
    ∧ (f.judged ≠ .unjudged → ∃ Q : Port,
      (f.judged = .formatError → Q.rx = none ∧ (s.dev.port p).FrameClosed f Q)
      ∧ (f.judged = .creditViolation → Q = { s.dev.port p with errorRun := 0, rx := none })
      ∧ (let closed := s.dev.onPort p fun _ => Q
        (∀ i ∈ [Instr.rxAbort p, .rxIdle p, .rxReady p], exec i s = s.nextWith closed)
          ∧ exec (.rxSof p) s = s.nextWith (begun closed)))

/-! ## Transmission -/

/-- R24, R26, R36, R72: CREDIT for all of unannounced, and the SOF that spends held, which waits for
credit and for the CREDIT owed (log 22). The frame sent is, by class, an R frame as it was chosen, the
received frame with HOPS, LABEL and an ENUM's NEXT replaced (R65), or the slot's frame under the header
of its offer (R108, R113). -/
def Obligations.CreditAndSofSent : Prop :=
  (∀ (s : State) (p : PortId), s.dev.LiveOnline p → (s.dev.port p).tx = .between →
    ((s.dev.port p).unannounced ≠ 0 → exec (.txCredit p) s = s.nextWith
        (s.dev.onPort p fun P =>
          { P with outstanding := P.outstanding + P.unannounced, unannounced := 0
                   lastSent := [.credit P.unannounced] })
        ∧ exec (.txSof p) s = .next s)
    ∧ (∀ c f, (s.dev.arbiter p).chosen = some { frame := c, sending := false } →
        chosenContent p c s.dev = some f → (s.dev.port p).unannounced = 0 →
        (chosenBlocks p c s.dev ≤ (s.dev.port p).held → exec (.txSof p) s = s.nextWith
          ((s.dev.onPort p fun P =>
            { P with held := P.held - chosenBlocks p c s.dev, tx := .sending f.bytes 0
                     lastSent := [.sof] }).onArbiter p fun a =>
            { a with chosen := some { frame := c, sending := true } }))
        ∧ ((s.dev.port p).held < chosenBlocks p c s.dev → exec (.txSof p) s = .next s)))
  ∧ ∀ (p : PortId) (d : Device),
    (∀ kind f, chosenContent p (.origin kind f) d = some f
      ∧ chosenBlocks p (.origin kind f) d = blockCount f.header.length.toNat)
    ∧ (∀ ref r, (d.port p.opposite).residents.find? (fun r => r.key = ref.key) = some r →
      chosenContent p (.forward ref) d = some
          { header := { r.frame.header with
              hops := ref.hops, label := ref.label, spareSeq := 0, spareHops := 0 }
            payload := match ref.next with
              | none => r.frame.payload
              | some next => r.frame.payload.set 1 next }
        ∧ chosenBlocks p (.forward ref) d = ref.blocks)
    ∧ ∀ k o, (d.slot ⟨p, k⟩).offered = some o →
      let slot := d.slot ⟨p, k⟩
      chosenContent p (.launch k) d = some
          { header :=
              { kind := 1, seq := o.seq, spareSeq := 0, spareHops := 0, hops := o.hops
                label := slot.label, length := slot.length, source := o.source, tag := 0 }
            payload := (List.range slot.length.toNat).map fun i =>
              Memory.read d.launch.mem (1024 * slotNumber ⟨p, k⟩ + i) }
        ∧ chosenBlocks p (.launch k) d = blockCount slot.length.toNat

/-- R36 (2), (3): the bytes of a frame in order, and the ABORT that closes one. -/
def Obligations.BytesAndAbortSent : Prop :=
  ∀ (s : State) (p : PortId), s.dev.Live →
    (∀ b rest n, (s.dev.port p).tx = .sending (b :: rest) n →
      exec (.txDataSymbol p) s =
        s.nextWith (s.dev.sent p (.sending rest (n + 1)) [.data b]))
    ∧ (∀ b owed closing, (s.dev.port p).tx = .aborting (b :: owed) closing →
      exec (.txDataSymbol p) s = s.nextWith (s.dev.sent p (.aborting owed closing) [.data b])
        ∧ exec (.txAbort p) s = .next s)
    ∧ ((s.dev.port p).tx = .aborting [] false →
      exec (.txAbort p) s = s.nextWith (s.dev.sent p .between [.abort]))
    ∧ ((s.dev.port p).tx = .aborting [] true →
      exec (.txAbort p) s = s.nextWith (s.dev.sent p .between [.abort, .ready]))
    ∧ (∀ rest n, abortTransmission (.sending rest n) = .aborting (rest.take (8 - n)) false)

/-- R69, R74, R116: the EOF of the chosen frame, by class: a forward use ends, a slot completes SENT, or
the origin entry leaves the list unless it is renewed. Where the spec leaves the arbiter's choice and
the sender's next placement unordered, the statement holds of one of the two orders (log 5). -/
def Obligations.EofEndsChosenFrame : Prop :=
  ∀ (s : State) (p : PortId) (c : Chosen) (n : Nat), s.dev.Live →
    (s.dev.port p).tx = .sending [] n → (s.dev.arbiter p).chosen = some c →
    let d := (s.dev.sent p .between [.eof]).onArbiter p fun a => { a with chosen := none }
    let kept := fun x : OriginEntry =>
      if x.chosen then
        match x.body with
        | .enumRet f true => some { body := .enumRet f false, chosen := false }
        | .enumRet _ false | .reply _ | .alert => none
      else some x
    let settled := { d with origin := d.origin.filterMap kept }
    let withAlert := fun e : Device =>
      { e with origin := e.origin ++ [{ body := .alert, chosen := false }] }
    let drawn := { settled with choices := settled.choices + 1 }
    (∀ ref, c.frame = .forward ref → ∃ e, exec (.txEof p) s = s.nextWith (arbitrate e)
        ∧ (d.port p.opposite).ForwardsEnded [ref.key] (e.port p.opposite)
        ∧ e.port p = d.port p
        ∧ e = { d.count (.port p .forwardedOut) with ports := e.ports })
    ∧ (∀ k, c.frame = .launch k → ∃ e, d.SlotCompleted e ⟨p, k⟩ .sent
        ∧ exec (.txEof p) s = s.nextWith (arbitrate (dealSlots p e)))
    ∧ (∀ f, c.frame = .origin .enumRet f → exec (.txEof p) s =
        s.nextWith (arbitrate settled))
    ∧ (∀ f, c.frame = .origin .reply f → s.dev.agent.resetDue = false →
        exec (.txEof p) s = s.nextWith (arbitrate (startRequest (arbitrate drawn)))
        ∨ exec (.txEof p) s = s.nextWith (arbitrate (arbitrate (startRequest drawn))))
    ∧ (∀ f, c.frame = .origin .alert f → s.dev.stats.alertPending = false →
        exec (.txEof p) s = s.nextWith (arbitrate settled))
    ∧ (∀ f, c.frame = .origin .alert f → s.dev.stats.alertPending = true →
        exec (.txEof p) s =
            s.nextWith (arbitrate (withAlert (arbitrate drawn)))
          ∨ exec (.txEof p) s =
            s.nextWith (arbitrate (arbitrate (withAlert drawn))))

/-- R13, R14, Table 13.1: a frame as sent has 12 + its payload's bytes, its header and payload are read
back from them, its trailer is the complement of the check register after all bytes before it, preset to
ones, and it passes the receiver's check (R31), which takes the bytes as `RxFrame.withByte` says. -/
def Obligations.SentFrameReadsBack : Prop :=
  (∀ f : RxFrame, f.checkFails = true ↔ f.lastFour ≠ wordBytes (~~~ f.check))
  ∧ (∀ (f : RxFrame) (b : Byte), f.takeCheck b =
      { f with check := (f.withByte b).check, lastFour := (f.withByte b).lastFour })
  ∧ ∀ f : Frame,
    let covered := f.bytes.take (8 + f.payload.length)
    f.bytes.length = 12 + f.payload.length
      ∧ decodeHeader (f.bytes.take 8) = some f.header
      ∧ (f.bytes.drop 8).take f.payload.length = f.payload
      ∧ f.bytes.drop (8 + f.payload.length) = wordBytes (~~~ (covered.foldl checkByte 0xFFFFFFFF))
      ∧ (f.bytes.foldl RxFrame.takeCheck RxFrame.fresh).checkFails = false

/-- R127, R186: a record as written is one of Table 13.3, records laid end to end are parsed back as they
were written, and a well-formed entry is written back from the form TABLE_READ returns. -/
def Obligations.RecordsReadBack : Prop :=
  (∀ o : Op, (∀ data, o = .echo data → data.length ≤ 255) → Op.LaidOut o (Op.record o))
  ∧ (∀ (n : Nat) (ops : List Op), ops.length ≤ n →
      (∀ data, Op.echo data ∈ ops → data.length ≤ 255) →
      parseRecords n (ops.flatMap Op.record) = some ops)
    ∧ ∀ e : Entry, e.WellFormed → entryOf (formOf e) = some { e with hits := 0 }

/-! ## Steering -/

/-- R43 to R45, R48, R61: the matching entry of lowest index wins and counts the hit, no other entry
changes, and its ACTION gives the frame its parts. COPY gives both, in either order (R57; log 5). -/
def Obligations.LookupTakesLowestIndex : Prop :=
  (∀ (e : Entry) (p : PortId) (label : Half), e.hit p label = true ↔
      (e.valid = true
        ∧ (e.base.toNat ≤ label.toNat ∧ label.toNat ≤ e.base.toNat + 2 ^ e.order.val - 1)
        ∧ (e.applies = .both ∨ e.applies = (match p with | .a => .down | .b => .up))))
    ∧ (∀ (t : Table) (p : PortId) (label : Half) (i : Fin 64), t.winner p label = some i ↔
        (t.entries[i].hit p label = true ∧ ∀ j < i, t.entries[j].hit p label = false))
    ∧ (∀ (t : Table) (p : PortId) (label : Half), t.winner p label = none ↔
        ∀ i : Fin 64, t.entries[i].hit p label = false)
    ∧ ∀ (p : PortId) (key : Nat) (h : Header) (d : Device),
        (∀ i, d.table.winner p h.label = some i →
          let e := d.table.entries[i]
          let counted := d.onEntry i fun e => { e with hits := saturatingSucc e.hits }
          let drawn := { counted with choices := counted.choices + 1 }
          let forwarded := forwardPart p key h (e.forwardLabel h.label)
          let captured := capturePart p key h i e.channel
          (e.action = .forward → steer p key h d = forwarded counted)
          ∧ (e.action = .capture → steer p key h d = captured counted)
          ∧ (e.action = .copy →
              steer p key h d = arbitrate (captured (arbitrate (forwarded drawn)))
              ∨ steer p key h d = arbitrate (forwarded (arbitrate (captured drawn))))
          ∧ (e.action = .discard → steer p key h d = counted.count (.port p .tableDiscards)))
        ∧ ∀ j : Fin 64, (steer p key h d).table.entries[j] =
            if d.table.winner p h.label = some j then
              { d.table.entries[j] with hits :=
                  if d.table.entries[j].hits.toNat = 4294967295 then d.table.entries[j].hits
                  else d.table.entries[j].hits + 1 }
            else d.table.entries[j]

/-- R39, R46: what makes an entry well formed, and the forwarded label of one that covers the label. -/
def Obligations.TranslationKeepsPlace : Prop :=
  (∀ e : Entry, e.WellFormed ↔ e.base.toNat % 2 ^ e.order.val = 0
    ∧ (e.translate = true → e.newBase.toNat % 2 ^ e.order.val = 0))
  ∧ ∀ (e : Entry) (label : Half), e.WellFormed → e.base.toNat ≤ label.toNat →
    label.toNat ≤ e.base.toNat + 2 ^ e.order.val - 1 →
    (e.translate = false → e.forwardLabel label = label)
    ∧ (e.translate = true →
        (e.forwardLabel label).toNat = e.newBase.toNat + (label.toNat - e.base.toNat)
          ∧ (e.forwardLabel label).toNat ≤ e.newBase.toNat + 2 ^ e.order.val - 1
          ∧ (e.forwardLabel label).toNat % 2 ^ e.order.val = label.toNat % 2 ^ e.order.val)

/-- R47: no entry matched. -/
def Obligations.DefaultDecides : Prop :=
  ∀ (p : PortId) (key : Nat) (h : Header) (d : Device), d.table.winner p h.label = none →
    let counted := d.count (.port p .defaultHits)
    let discards := match p with | .a => d.table.discardDown | .b => d.table.discardUp
    (discards = true → steer p key h d = counted.count (.port p .tableDiscards))
    ∧ (discards = false → steer p key h d = forwardPart p key h h.label counted)
    ∧ (steer p key h d).table = d.table ∧ (steer p key h d).capture = d.capture

/-- R2, R62, R63: the two checks of a forward part toward the opposite port, and the reference. -/
def Obligations.ForwardPartChecked : Prop :=
  (PortId.a.opposite = .b ∧ PortId.b.opposite = .a)
  ∧ ∀ (p : PortId) (key : Nat) (h : Header) (label : Half) (d : Device),
    (h.hops = 0 → forwardPart p key h label d =
        (d.count (.port p .hopExpired)).report (portFault .hopExpired p (some h)))
    ∧ (h.hops ≠ 0 → (d.port p.opposite).link ≠ .online → forwardPart p key h label d =
        (d.count (.port p.opposite .egressDropped)).report
          (portFault .egressDown p.opposite (some h)))
    ∧ (h.hops ≠ 0 → (d.port p.opposite).link = .online → forwardPart p key h label d =
        (d.onPort p fun P => { P with residents := P.residents.map fun r =>
            if r.key = key then { r with forwardUse := true } else r }).onArbiter p.opposite fun a =>
          { a with queue := a.queue ++
              [{ key, blocks := blockCount h.length.toNat, hops := h.hops - 1, label, next := none }] })

/-- R81 to R86: the capture decision. The first check that applies decides. -/
def Obligations.CaptureDecided : Prop :=
  ∀ (p : PortId) (key : Nat) (h : Header) (i : Fin 64) (ch : Fin 8) (d : Device),
    ((d.channel ch).enabled = false →
      capturePart p key h i ch d = d.count (.channel ch .disabledDrop))
    ∧ ((d.channel ch).enabled = true →
      ((d.channel ch).seqCheck = true → h.seq ≠ (d.channel ch).expect →
        capturePart p key h i ch d = d.count (.channel ch .repeatDrop))
      ∧ (((d.channel ch).seqCheck = true → h.seq = (d.channel ch).expect) →
        ((d.channel ch).quota.toNat ≤ (d.channel ch).held →
          capturePart p key h i ch d = d.count (.channel ch .quotaDrop))
        ∧ ((d.channel ch).held < (d.channel ch).quota.toNat →
          (d.capture.free = [] → capturePart p key h i ch d =
            ((d.count (.channel ch .noBuffer)).onChannel ch fun c =>
                { c with starved := true }).setStarvation.report
              { kind := .noBuffer, port := some p, frame := some h.fields, channel := some ch
                buffer := none })
          ∧ (∀ b rest, d.capture.free = b :: rest →
            let e := capturePart p key h i ch d
            let clip := (d.channel ch).clip.toNat
            e.capture.free = rest
              ∧ e.buffer b = { state := .filling, channel := ch }
              ∧ (∀ x, x ≠ b → e.buffer x = d.buffer x)
              ∧ e.channel ch =
                  { d.channel ch with
                    held := (d.channel ch).held + 1, starved := false
                    expect := if (d.channel ch).seqCheck then !(d.channel ch).expect
                      else (d.channel ch).expect }
              ∧ (∀ c, c ≠ ch → e.channel c = d.channel c)
              ∧ e.capture.work = d.capture.work ++
                  [{ buffer := b, channel := ch, port := p, entry := i, label := h.label
                     source := h.source, seq := h.seq, fullLength := h.length.toNat
                     capturedLength := min h.length.toNat clip
                     clipped := decide (clip < h.length.toNat), key }]
              ∧ e.capture.delivery = d.capture.delivery ∧ e.capture.mem = d.capture.mem
              ∧ e.port p = { d.port p with residents := (d.port p).residents.map fun r =>
                  if r.key = key then { r with captureUse := true } else r }
              ∧ e.port p.opposite = d.port p.opposite
              ∧ e = { d with ports := e.ports, capture := e.capture }))))

/-- R8, R58 to R60, R123: what a good frame is given, by kind and arrival port, the target of a request
being the low six bits of its LABEL; and a request copy offered to the agent's queue, which is started at
once if it can be, or is an overrun. -/
def Obligations.FramesDispatchedByKind : Prop :=
  (∀ h : Header, h.target.toNat = h.label.toNat % 64)
  ∧ ∀ (key : Nat) (f : Frame) (d : Device),
    let h := f.header
    let misrouted := fun p : PortId =>
      (d.count (.port p .misrouted)).report (portFault .misrouted p (some h))
    (h.kind = 1 → ∀ p, dispatch p key f d = steer p key h d)
    ∧ (h.kind = 2 → dispatch .b key f d = misrouted .b
        ∧ (h.target = d.agent.node → d.agent.node ≠ 0 → dispatch .a key f d =
            offerCopy h { tag := h.tag, broadcast := false, length := h.length.toNat
                          payload := f.payload } d)
        ∧ ((h.target ≠ d.agent.node ∨ d.agent.node = 0) → h.target ≠ 63 →
            dispatch .a key f d = forwardPart .a key h h.label d)
        ∧ ((h.target ≠ d.agent.node ∨ d.agent.node = 0) → h.target = 63 →
            let q : RequestCopy :=
              { tag := h.tag, broadcast := true, length := h.length.toNat, payload := f.payload }
            let drawn := { d with choices := d.choices + 1 }
            dispatch .a key f d =
                arbitrate (offerCopy h q (arbitrate (forwardPart .a key h h.label drawn)))
              ∨ dispatch .a key f d =
                arbitrate (forwardPart .a key h h.label (arbitrate (offerCopy h q drawn)))))
    ∧ (h.kind = 4 → dispatch .a key f d = dispatchEnum key h f.payload d
        ∧ dispatch .b key f d = misrouted .b)
    ∧ (h.kind = 3 ∨ h.kind = 5 ∨ h.kind = 6 → dispatch .a key f d = misrouted .a
        ∧ dispatch .b key f d = forwardPart .b key h h.label d)
    ∧ ∀ q : RequestCopy,
        (d.agent.queue.length < 2 → offerCopy h q d =
          startRequest { d with agent := { d.agent with queue := d.agent.queue ++ [q] } })
        ∧ (2 ≤ d.agent.queue.length → offerCopy h q d =
          (d.count .overrun).report
            { kind := .agentOverrun, port := some .a, frame := some h.fields, channel := none
              buffer := none })

/-- R67, R148 to R152: an ENUM at port A. At NEXT 63 the report is part of the take and comes before the
pass, but for the two reports of an ENUM with HOPS 0 (R160; log 5). A new return renews one that
stands in the list. -/
def Obligations.EnumerationTakesAndPasses : Prop :=
  ∀ (key : Nat) (h : Header) (payload : List Byte) (d : Device),
    ((∀ mode next, payload = [mode, next] →
        ¬((mode = 1 ∨ mode = 2) ∧ 1 ≤ next.toNat ∧ next.toNat ≤ 63)) →
      dispatchEnum key h payload d =
        (d.count (.port .a .formatErr)).report (portFault .format .a (some h)))
    ∧ ∀ mode next, payload = [mode, next] → (mode = 1 ∨ mode = 2) → 1 ≤ next.toNat →
        next.toNat ≤ 63 →
      (mode = 1 → d.agent.node ≠ 0 → dispatchEnum key h payload d = passEnum key h mode next d)
      ∧ ((mode = 2 ∨ d.agent.node = 0) → next.toNat ≤ 62 →
          ∃ e, dispatchEnum key h payload d = passEnum key h mode (next + 1) e
            ∧ e = { d with
                agent := { d.agent with node := next.setWidth 6, lastTag := 0, replay := none }
                lap := { d.lap with nodeChanged := true } })
      ∧ ((mode = 2 ∨ d.agent.node = 0) → next = 63 →
          let drawn := { d with choices := d.choices + 1 }
          let exhausted := fun e : Device => e.report
            { kind := .numberExhausted, port := some .a, frame := some h.fields, channel := none
              buffer := none }
          let pass := passEnum key h mode 63
          (h.hops ≠ 0 → dispatchEnum key h payload d = pass (exhausted d))
          ∧ (h.hops = 0 →
            dispatchEnum key h payload d = arbitrate (pass (arbitrate (exhausted drawn)))
            ∨ dispatchEnum key h payload d = arbitrate (exhausted (arbitrate (pass drawn))))
          ∧ (dispatchEnum key h payload d).agent = d.agent
          ∧ (dispatchEnum key h payload d).lap = d.lap)
      ∧ (∀ passed e,
          let return_ : Frame :=
            { header := { kind := 5, seq := false, spareSeq := 0, spareHops := 0
                          hops := e.egressCtl.injectHops, label := 0, length := 2
                          source := e.agent.node.setWidth 8, tag := 0 }
              payload := [mode, passed] }
          (h.hops = 0 → passEnum key h mode passed e =
            (e.count (.port .a .hopExpired)).report (portFault .hopExpired .a (some h)))
          ∧ (h.hops ≠ 0 → (e.port .b).link = .online → passEnum key h mode passed e =
              (e.onPort .a fun P => { P with residents := P.residents.map fun r =>
                if r.key = key then { r with forwardUse := true } else r }).onArbiter .b fun a =>
                { a with queue := a.queue ++
                    [{ key, blocks := blockCount h.length.toNat, hops := h.hops - 1, label := h.label
                       next := some passed }] })
          ∧ (h.hops ≠ 0 → (e.port .b).link ≠ .online → e.hasOrigin .enumRet = false →
              passEnum key h mode passed e =
                { e with origin := e.origin ++ [{ body := .enumRet return_ false, chosen := false }] })
          ∧ (h.hops ≠ 0 → (e.port .b).link ≠ .online → e.hasOrigin .enumRet = true →
              passEnum key h mode passed e =
                { e with origin := e.origin.map fun x =>
                    if x.body.kind = .enumRet then { x with body := .enumRet return_ x.chosen }
                    else x }))

/-- R68, R70, R71, R168: the arbiters choose each by itself, at an ONLINE port with no chosen frame and
nowhere else. The ALERT is composed at the choice, from the record as it stands (Table 13.6), which ends
its pending; one whose record is EMPTY is withdrawn, and the choice is made among what remains. I is the
NEXT slot while it waits under an offer, and F and I are chosen with no other effect than the one given. -/
def Obligations.ArbiterChoosesByShare : Prop :=
  (∀ d : Device, arbitrate d = choose .b (choose .a d))
  ∧ (∀ (p : PortId) (d : Device),
      ((d.port p).link ≠ .online ∨ (d.arbiter p).chosen ≠ none) → choose p d = d)
  ∧ (∀ (p : PortId) (d : Device) (k : Parity), offeredSlot d p = some k ↔
      k = d.nextParity p ∧ (d.slot ⟨p, k⟩).owner = .waiting ∧ (d.slot ⟨p, k⟩).offered ≠ none)
  ∧ ∀ (p : PortId) (d : Device), (d.port p).link = .online → (d.arbiter p).chosen = none →
    (∀ e rest f kind, p = .a → d.origin = e :: rest →
        ((e.body = .reply f ∧ kind = .reply) ∨ (∃ r, e.body = .enumRet f r) ∧ kind = .enumRet
          ∨ (e.body = .alert ∧ d.stats.record ≠ none ∧ kind = .alert
            ∧ f = { header :=
                      { kind := 6, seq := false, spareSeq := 0, spareHops := 0
                        hops := d.egressCtl.injectHops, label := d.agent.node.setWidth 16
                        length := 24, source := d.agent.node.setWidth 8, tag := 0 }
                    payload := faultForm d.stats.record d.stats.overflow })) →
        choose p d =
          { d with
            origin := { e with chosen := true } :: rest
            egress := d.egress.set p { d.arbiter p with
              chosen := some { frame := .origin kind f, sending := false } }
            stats := { d.stats with
              alertPending := if kind = .alert then false else d.stats.alertPending } })
    ∧ (∀ e rest, p = .a → d.origin = e :: rest → e.body = .alert → d.stats.record = none →
        choose p d = choose p
          { d with origin := rest, stats := { d.stats with alertPending := false } })
    ∧ (∀ r overflow, faultForm (some r) overflow =
        let b := fun x : Bool => BitVec.ofBool x
        let frame := r.frame.getD { kind := 0, label := 0, source := 0, hops := 0, length := 0 }
        [0x01, BitVec.ofNat 8 (r.kind.bit + 1)
        , (0 : BitVec 4) ++ b r.buffer.isSome ++ b r.channel.isSome ++ b r.frame.isSome ++ b r.port.isSome
        , if r.port = some .b then 1 else 0
        , frame.kind.setWidth 8, frame.hops.setWidth 8
        , frame.label.extractLsb' 8 8, frame.label.extractLsb' 0 8
        , frame.length.extractLsb' 8 8, frame.length.extractLsb' 0 8, frame.source
        , match r.channel with | none => 0 | some c => BitVec.ofNat 8 c.val]
          ++ wordBytes (r.buffer.getD 0) ++ [overflow, 0, 0, 0, 0, 0, 0, 0])
    ∧ ((p = .a → d.origin = []) →
      (∀ ref rest, (d.arbiter p).queue = ref :: rest → offeredSlot d p = none →
        choose p d = d.onArbiter p fun a =>
          { queue := rest, share := a.share
            chosen := some { frame := .forward ref, sending := false } })
      ∧ (∀ ref rest k, (d.arbiter p).queue = ref :: rest → offeredSlot d p = some k →
          (d.arbiter p).share < d.egressCtl.injectShare.toNat →
          choose p d = d.onArbiter p fun a =>
            { queue := rest, share := a.share + 1
              chosen := some { frame := .forward ref, sending := false } })
      ∧ (∀ k, offeredSlot d p = some k →
          ((d.arbiter p).queue = [] ∨ d.egressCtl.injectShare.toNat ≤ (d.arbiter p).share) →
          choose p d = (d.onSlot ⟨p, k⟩ fun x => { x with owner := .committed }).onArbiter p fun a =>
            { queue := a.queue, share := 0
              chosen := some { frame := .launch k, sending := false } })
      ∧ ((d.arbiter p).queue = [] → offeredSlot d p = none → choose p d = d))

/-! ## Capture unit and returns -/

/-- R93, R94, R97: the copy of the head work item completes. Its notice copies the fields of the item, and
a frame left without a use is released (R34). -/
def Obligations.CopyCompletionPostsNotice : Prop :=
  ∀ (s : State) (w : WorkItem) (rest : List WorkItem), s.dev.Live → s.dev.capture.work = w :: rest →
    Memory.wf s.dev.capture.mem →
    let P := s.dev.port w.port
    let found := P.residents.find? fun r => r.key = w.key
    let bytes := ((found.map fun r => r.frame.payload).getD []).take w.capturedLength
    let first := 1024 * w.buffer.val
    let ended := P.residents.map fun r => if r.key = w.key then { r with captureUse := false } else r
    ∃ e, exec .copyCompletion s = s.nextWith e
      ∧ e.capture.work = rest
      ∧ e.capture.delivery = s.dev.capture.delivery ++
          [{ buffer := w.buffer, channel := w.channel, port := w.port, entry := w.entry
             label := w.label, source := w.source, seq := w.seq, fullLength := w.fullLength
             capturedLength := w.capturedLength, clipped := w.clipped }]
      ∧ (∀ a, Memory.read e.capture.mem a =
          if h : first ≤ a ∧ a - first < bytes.length then bytes[a - first]'h.2
          else Memory.read s.dev.capture.mem a)
      ∧ (∀ b, e.buffer b =
          if b = w.buffer then { s.dev.buffer b with state := .posted } else s.dev.buffer b)
      ∧ e.capture.free = s.dev.capture.free ∧ e.capture.channels = s.dev.capture.channels
      ∧ (∀ c, e.counter c =
          if c = .channel w.channel .captured ∨ (c = .channel w.channel .clipped ∧ w.clipped = true)
          then saturatingSucc (s.dev.counter c) else s.dev.counter c)
      ∧ e.port w.port = { P with
          residents := ended.filter fun r => r.forwardUse || r.captureUse
          unannounced := P.unannounced
            + blocksOf (ended.filter fun r => !(r.forwardUse || r.captureUse)) }
      ∧ e.port w.port.opposite = s.dev.port w.port.opposite ∧ e.egress = s.dev.egress
      ∧ e.origin = s.dev.origin ∧ e.table = s.dev.table ∧ e.launch = s.dev.launch
      ∧ e.agent = s.dev.agent ∧ e.lap = s.dev.lap ∧ e.stats.record = s.dev.stats.record

/-- R98, R178: the read of NOTICE_TAKE, and the three words of the latch (Table 13.11), whose bits of no
field read as 0 by the model's choice (log 26). -/
def Obligations.NoticeTaken : Prop :=
  (∀ s : State, s.dev.WordDue .read 0x0008 →
    (∀ n rest, s.dev.capture.delivery = n :: rest →
      exec .noticeTake s = s.nextWith
        (s.dev.wordDone
          ({ s.dev with
              capture := { s.dev.capture with delivery := rest }
              lap := { s.dev.lap with latch := some n } }.onBuffer n.buffer fun b =>
            { b with state := .taken })
          .read 0x0008 (latchValue (some n) 0)))
    ∧ (s.dev.capture.delivery = [] → exec .noticeTake s = s.nextWith
        (s.dev.wordDone { s.dev with lap := { s.dev.lap with latch := none } } .read 0x0008 0)))
  ∧ (∀ (d : Device) (i : Fin 3), lapRead (.latchWord i) d = (latchValue d.lap.latch i, d))
  ∧ (∀ i, latchValue none i = 0)
  ∧ ∀ n : Notice,
      let b := fun x : Bool => BitVec.ofBool x
      latchValue (some n) 0 =
          (1 : BitVec 1) ++ (0 : BitVec 2) ++ BitVec.ofNat 5 n.buffer.val ++ (0 : BitVec 1)
            ++ BitVec.ofNat 3 n.channel.val ++ (0 : BitVec 3)
            ++ (match n.port with | .a => 0 | .b => 1 : BitVec 1) ++ (0 : BitVec 10)
            ++ BitVec.ofNat 6 n.entry.val
        ∧ latchValue (some n) 1 = n.label ++ (0 : BitVec 10) ++ n.source.extractLsb' 0 6
        ∧ latchValue (some n) 2 =
          b n.seq ++ b n.clipped ++ (0 : BitVec 3) ++ BitVec.ofNat 11 n.fullLength
            ++ (0 : BitVec 5) ++ BitVec.ofNat 11 n.capturedLength

/-- R100, R101: a buffer return, accepted or refused. -/
def Obligations.BufferReturned : Prop :=
  ∀ (s : State) (v : Word), s.dev.WordDue .write 0x0010 →
    (∀ b : Fin 32, v.toNat = b.val → (s.dev.buffer b).state = .taken →
      ∃ e, exec (.freeReturn v) s = s.nextWith (s.dev.wordDone e .write 0x0010 0)
        ∧ e.capture.free = s.dev.capture.free ++ [b]
        ∧ (∀ x, e.buffer x =
            if x = b then { s.dev.buffer b with state := .pooled } else s.dev.buffer x)
        ∧ (∀ c, e.channel c =
            if c = (s.dev.buffer b).channel then
              { s.dev.channel c with held := (s.dev.channel c).held - 1 }
            else s.dev.channel c)
        ∧ e = { s.dev with capture := e.capture } ∧ e.capture.mem = s.dev.capture.mem
        ∧ e.capture.work = s.dev.capture.work ∧ e.capture.delivery = s.dev.capture.delivery)
    ∧ ((32 ≤ v.toNat ∨ ∃ b : Fin 32, v.toNat = b.val ∧ (s.dev.buffer b).state ≠ .taken) →
      exec (.freeReturn v) s = s.nextWith
        (s.dev.wordDone
          (arbitrate ((s.dev.count .returnRejects).report
            { kind := .returnReject, port := none, frame := none, channel := none
              buffer := some v }).setAccessFault)
          .write 0x0010 0))

/-! ## Counters, faults and alerts -/

/-- R157, R160, R162, R163, R167: a count and a fault report, each one event at the statistics unit; the
place of each kind in FAULT_MASK, one below its code (Table 13.7); and the fields of a report about a
received frame (Tables 10.4, 10.5). -/
def Obligations.CountsAndReportsTaken : Prop :=
  (FaultKind.bit .crc = 0 ∧ FaultKind.bit .format = 1 ∧ FaultKind.bit .creditViolation = 2
    ∧ FaultKind.bit .misrouted = 3 ∧ FaultKind.bit .hopExpired = 4 ∧ FaultKind.bit .linkDrop = 5
    ∧ FaultKind.bit .creditOverrun = 6 ∧ FaultKind.bit .egressDown = 7 ∧ FaultKind.bit .noBuffer = 8
    ∧ FaultKind.bit .returnReject = 9 ∧ FaultKind.bit .agentOverrun = 10
    ∧ FaultKind.bit .numberExhausted = 11)
  ∧ (∀ (r : FaultReport) (overflow : Byte),
      (faultForm (some r) overflow)[1]? = some (BitVec.ofNat 8 (r.kind.bit + 1)))
  ∧ (∀ h : Header, h.fields =
      { kind := h.kind, label := h.label, source := h.source, hops := h.hops, length := h.length })
  ∧ (∀ (k : FaultKind) (p : PortId),
      portFault k p none =
        { kind := k, port := some p, frame := none, channel := none, buffer := none }
      ∧ ∀ h, portFault k p (some h) =
        { kind := k, port := some p, frame := some h.fields, channel := none, buffer := none })
  ∧ (∀ w : Word, saturatingSucc w = if w.toNat = 4294967295 then w else w + 1)
  ∧ (∀ (d : Device) (k : OriginKind), d.hasOrigin k = true ↔ ∃ e ∈ d.origin, e.body.kind = k)
  ∧ (∀ f renewed, (OriginBody.reply f).kind = .reply ∧ (OriginBody.enumRet f renewed).kind = .enumRet
      ∧ OriginBody.alert.kind = .alert)
  ∧ ∀ (d : Device) (c : CounterId) (r : FaultReport),
    let raised := { d.stats with record := some r, alertPending := true }
    (∀ x, (d.count c).counter x =
        if x = c ∧ (d.counter x).toNat ≠ 4294967295 then d.counter x + 1 else d.counter x)
    ∧ (d.stats.mask.getLsbD r.kind.bit = false → d.report r = d)
    ∧ (d.stats.mask.getLsbD r.kind.bit = true →
      (d.stats.record = none → d.stats.alertEnable = false →
        d.report r = { d with stats := { d.stats with record := some r } })
      ∧ (d.stats.record = none → d.stats.alertEnable = true →
        (d.hasOrigin .alert = true → d.report r = { d with stats := raised })
        ∧ (d.hasOrigin .alert = false → d.report r =
            { d with stats := raised, origin := d.origin ++ [{ body := .alert, chosen := false }] }))
      ∧ (d.stats.record ≠ none → d.report r =
          { d with stats := { d.stats with
              overflow := if d.stats.overflow.toNat = 255 then d.stats.overflow
                else d.stats.overflow + 1 } }))

/-! ## Management operations -/

/-- R23, R134, R137: READ_WORD, the addresses, and every word as its fields stand in any state
(Table 13.8). The word is returned as four bytes, the first most significant. -/
def Obligations.ReadWordReturnsTheWord : Prop :=
  (∀ (s : State) (b : Batch) (address : Byte), s.dev.AtOperation b (.readWord address) →
    (∀ w, controlWord address = some w → exec (.readWord address) s = s.nextWith
        (s.dev.withResult b (.readWord address) .ok (wordBytes (readControl s.dev w))))
    ∧ (controlWord address = none → exec (.readWord address) s = s.nextWith
        (s.dev.withResult b (.readWord address) .badAddress []))
    ∧ (controlWord address = none ↔
        (0x0A ≤ address.toNat ∧ address.toNat ≤ 0x0F) ∨ 0x1F < address.toNat))
  ∧ ([0, 1, 2, 3, 4, 5, 6, 7, 8, 9].map controlWord =
      [ControlWord.ident, .revision, .node, .portCtl, .portState, .defaultAction, .egressCtl
      , .faultMask, .alertCtl, .poolState].map some)
  ∧ (∀ c : Fin 8, controlWord (0x10 + BitVec.ofNat 8 c.val) = some (.channelCfg c)
      ∧ controlWord (0x18 + BitVec.ofNat 8 c.val) = some (.channelState c))
  ∧ (∀ w : Word, wordBytes w =
      [w.extractLsb' 24 8, w.extractLsb' 16 8, w.extractLsb' 8 8, w.extractLsb' 0 8])
  ∧ (∀ P : Port, P.occupied = P.charged + (P.residents.map Resident.blocks).sum
      ∧ (P.rx = none → P.charged = 0)
      ∧ ∀ f, P.rx = some f → (f.charge = none → P.charged = 0)
          ∧ ∀ n, f.charge = some n → P.charged = n)
  ∧ ∀ d : Device,
    let b := fun x : Bool => BitVec.ofBool x
    let port := fun P : Port => BitVec.ofNat 6 P.occupied ++ BitVec.ofNat 6 P.held
      ++ (match P.link with | .offline => 0 | .seeking => 1 | .online => 2 : BitVec 2)
    let buffers := fun st => BitVec.ofNat 6
      ((List.finRange 32).countP fun b => (d.buffer b).state = st)
    readControl d .ident = 0x5C300216 ∧ readControl d .revision = 0x00000001
      ∧ readControl d .node = (0 : BitVec 26) ++ d.agent.node
      ∧ readControl d .portCtl = (0 : BitVec 31) ++ b d.enableB
      ∧ readControl d .portState =
          (0 : BitVec 2) ++ port (d.port .b) ++ (0 : BitVec 2) ++ port (d.port .a)
      ∧ readControl d .defaultAction =
          (0 : BitVec 30) ++ b d.table.discardUp ++ b d.table.discardDown
      ∧ readControl d .egressCtl =
          (0 : BitVec 18) ++ d.egressCtl.injectHops ++ (0 : BitVec 4) ++ d.egressCtl.injectShare
      ∧ readControl d .faultMask = (0 : BitVec 20) ++ d.stats.mask
      ∧ readControl d .alertCtl =
          (0 : BitVec 23) ++ b d.stats.alertPending ++ (0 : BitVec 7) ++ b d.stats.alertEnable
      ∧ readControl d .poolState =
          (0 : BitVec 2) ++ buffers .taken ++ (0 : BitVec 2) ++ buffers .posted
            ++ (0 : BitVec 2) ++ buffers .filling ++ (0 : BitVec 2) ++ buffers .pooled
      ∧ ∀ c, readControl d (.channelCfg c) =
            (0 : BitVec 5) ++ (d.channel c).clip ++ (0 : BitVec 2) ++ (d.channel c).quota
              ++ (0 : BitVec 6) ++ b (d.channel c).seqCheck ++ b (d.channel c).enabled
          ∧ readControl d (.channelState c) =
            (0 : BitVec 18) ++ BitVec.ofNat 6 (d.channel c).held
              ++ (0 : BitVec 6) ++ b (d.channel c).starved ++ b (d.channel c).expect

/-- R135, R136: WRITE_WORD and MODIFY_WORD: the writable words, the ranges of their fields, what a write
sets, and what the word then reads. A write of PORT_CTL is the write of ENABLE_B at port B (R21, R22;
log 9). The data of MODIFY_WORD is the word as read after the change (log 11). -/
def Obligations.ControlWordsWritten : Prop :=
  (∀ (s : State) (b : Batch) (address : Byte) (value mask : Word),
    let merged := fun w => (value &&& mask) ||| (readControl s.dev w &&& ~~~mask)
    (s.dev.AtOperation b (.writeWord address value) →
      (controlWord address = none → exec (.writeWord address value) s = s.nextWith
          (s.dev.withResult b (.writeWord address value) .badAddress []))
      ∧ ∀ w, controlWord address = some w →
        (w.writable = false → exec (.writeWord address value) s = s.nextWith
            (s.dev.withResult b (.writeWord address value) .readOnly []))
        ∧ (w.writable = true → fieldsLegal w value = false →
            exec (.writeWord address value) s = s.nextWith
              (s.dev.withResult b (.writeWord address value) .badOperand []))
        ∧ (w.writable = true → fieldsLegal w value = true →
            exec (.writeWord address value) s = s.nextWith
              ((writeControl w value s.dev).withResult b (.writeWord address value) .ok [])))
    ∧ (s.dev.AtOperation b (.modifyWord address value mask) →
      (controlWord address = none → exec (.modifyWord address value mask) s = s.nextWith
          (s.dev.withResult b (.modifyWord address value mask) .badAddress []))
      ∧ ∀ w, controlWord address = some w →
        (w.writable = false → exec (.modifyWord address value mask) s = s.nextWith
            (s.dev.withResult b (.modifyWord address value mask) .readOnly []))
        ∧ (w.writable = true → fieldsLegal w (merged w) = false →
            exec (.modifyWord address value mask) s = s.nextWith
              (s.dev.withResult b (.modifyWord address value mask) .badOperand []))
        ∧ (w.writable = true → fieldsLegal w (merged w) = true →
            let e := writeControl w (merged w) s.dev
            exec (.modifyWord address value mask) s = s.nextWith
              (e.withResult b (.modifyWord address value mask) .ok (wordBytes (readControl e w))))))
  ∧ (∀ w : ControlWord, w.writable = true ↔
      w = .portCtl ∨ w = .defaultAction ∨ w = .egressCtl ∨ w = .faultMask ∨ w = .alertCtl
        ∨ ∃ c, w = .channelCfg c)
  ∧ (∀ (w : ControlWord) (v : Word),
      let quota := (v.extractLsb' 8 6).toNat
      let clip := (v.extractLsb' 16 11).toNat
      fieldsLegal w v = true ↔
        (w = .egressCtl → v.extractLsb' 0 4 ≠ 0)
          ∧ ((∃ c, w = .channelCfg c) →
            clip % 16 = 0 ∧ 16 ≤ clip ∧ clip ≤ 1024 ∧ quota ≠ 0 ∧ quota ≤ 32))
  ∧ ∀ (v : Word) (d : Device),
      writeControl .defaultAction v d =
          { d with table := { d.table with discardDown := v.getLsbD 0, discardUp := v.getLsbD 1 } }
      ∧ writeControl .egressCtl v d =
          { d with egressCtl := ⟨v.extractLsb' 0 4, v.extractLsb' 8 6⟩ }
      ∧ writeControl .faultMask v d = { d with stats := { d.stats with mask := v.extractLsb' 0 12 } }
      ∧ writeControl .alertCtl v d = { d with stats := { d.stats with alertEnable := v.getLsbD 0 } }
      ∧ (∀ c, writeControl (.channelCfg c) v d = d.onChannel c fun x =>
          { x with enabled := v.getLsbD 0, seqCheck := v.getLsbD 1
                   quota := v.extractLsb' 8 6, clip := v.extractLsb' 16 11 })
      ∧ (d.Live → ∀ waiting,
          exec (if v.getLsbD 0 then .enableBSet else .enableBClear) ⟨d, waiting⟩ =
            .next ⟨writeControl .portCtl v d, waiting⟩)
      ∧ readControl (writeControl .portCtl v d) .portCtl = v &&& 0x00000001
      ∧ readControl (writeControl .defaultAction v d) .defaultAction = v &&& 0x00000003
      ∧ readControl (writeControl .egressCtl v d) .egressCtl = v &&& 0x00003F0F
      ∧ readControl (writeControl .faultMask v d) .faultMask = v &&& 0x00000FFF
      ∧ readControl (writeControl .alertCtl v d) .alertCtl =
          (v &&& 0x00000001) ||| (readControl d .alertCtl &&& 0x00000100)
      ∧ ∀ c, readControl (writeControl (.channelCfg c) v d) (.channelCfg c) = v &&& 0x07FF3F03

/-- R39, R50, R53: the operations on the steering table, and the codes and the entry form of
Table 13.4. -/
def Obligations.TableOperationsRun : Prop :=
  (Applies.code .down = 1 ∧ Applies.code .up = 2 ∧ Applies.code .both = 3)
  ∧ (Action.code .forward = 0 ∧ Action.code .capture = 1 ∧ Action.code .copy = 2
    ∧ Action.code .discard = 3)
  ∧ (∀ e : Entry, encodeForm (formOf e) =
      [BitVec.ofBool e.valid ++ BitVec.ofBool e.translate ++ e.applies.code ++ (0 : BitVec 1)
          ++ e.action.code
      , BitVec.ofNat 8 e.order.val, e.base.extractLsb' 8 8, e.base.extractLsb' 0 8
      , e.newBase.extractLsb' 8 8, e.newBase.extractLsb' 0 8, BitVec.ofNat 8 e.channel.val])
  ∧ ∀ (s : State) (b : Batch),
    (∀ index form, s.dev.AtOperation b (.tableWrite index form) →
      (64 ≤ index.toNat → exec (.tableWrite index form) s = s.nextWith
          (s.dev.withResult b (.tableWrite index form) .badIndex []))
      ∧ ∀ i : Fin 64, index.toNat = i.val →
        let order := form.order.toNat
        let bad := 16 < order ∨ form.base.toNat % 2 ^ order ≠ 0
          ∨ (form.translate = true ∧ form.newBase.toNat % 2 ^ order ≠ 0) ∨ 7 < form.channel.toNat
          ∨ 3 < form.action.toNat ∨ form.applies = 0
        (bad → exec (.tableWrite index form) s = s.nextWith
            (s.dev.withResult b (.tableWrite index form) .badEntry []))
        ∧ (¬bad → ∃ e : Entry, exec (.tableWrite index form) s = s.nextWith
              ((s.dev.onEntry i fun _ => e).withResult b (.tableWrite index form) .ok [])
            ∧ e.valid = form.valid ∧ e.base = form.base ∧ e.order.val = order
            ∧ e.applies.code = form.applies ∧ e.action.code = form.action
            ∧ e.translate = form.translate ∧ e.newBase = form.newBase
            ∧ e.channel.val = form.channel.toNat ∧ e.hits = 0))
    ∧ (∀ index clear, s.dev.AtOperation b (.tableRead index clear) →
      (64 ≤ index.toNat → exec (.tableRead index clear) s = s.nextWith
          (s.dev.withResult b (.tableRead index clear) .badIndex []))
      ∧ ∀ i : Fin 64, index.toNat = i.val →
        let e := s.dev.table.entries[i]
        exec (.tableRead index clear) s = s.nextWith
          ((if clear then s.dev.onEntry i fun e => { e with hits := 0 } else s.dev).withResult b
            (.tableRead index clear) .ok (encodeForm (formOf e) ++ wordBytes e.hits)))
    ∧ ∀ first count, s.dev.AtOperation b (.tableInvalidate first count) →
      let legal := 1 ≤ count.toNat ∧ count.toNat ≤ 64 ∧ first.toNat + count.toNat ≤ 64
      (¬legal → exec (.tableInvalidate first count) s = s.nextWith
          (s.dev.withResult b (.tableInvalidate first count) .badIndex []))
      ∧ (legal → ∃ t : Table, exec (.tableInvalidate first count) s = s.nextWith
            ({ s.dev with table := t }.withResult b (.tableInvalidate first count) .ok [])
          ∧ t.discardDown = s.dev.table.discardDown ∧ t.discardUp = s.dev.table.discardUp
          ∧ ∀ i : Fin 64, t.entries[i] =
              if first.toNat ≤ i.val ∧ i.val < first.toNat + count.toNat then
                { s.dev.table.entries[i] with valid := false }
              else s.dev.table.entries[i])

/-- R139: COUNTER_READ, and the 82 counters its ids name (Table 13.9). -/
def Obligations.CounterRead : Prop :=
  (∀ (d : Device) (c : CounterId), d.counter c = d.stats.counters[c.id])
  ∧ [CounterId.port .a .framesIn, .port .a .crcErr, .port .a .formatErr, .port .a .abortedIn
    , .port .a .creditViolation, .port .a .misrouted, .port .a .hopExpired, .port .a .tableDiscards
    , .port .a .defaultHits, .port .a .forwardedOut, .port .a .egressDropped, .port .a .linkDrops
    , .port .a .creditOverrun].map (fun c => c.id.val) = [0, 1, 2, 3, 4, 5, 6, 7, 8, 9, 10, 11, 12]
  ∧ (∀ c, (CounterId.port .b c).id.val = 13 + (CounterId.port .a c).id.val)
  ∧ (∀ ch : Fin 8,
      [CounterId.channel ch .captured, .channel ch .clipped, .channel ch .noBuffer
      , .channel ch .quotaDrop, .channel ch .repeatDrop, .channel ch .disabledDrop].map
          (fun c => c.id.val) = [0, 1, 2, 3, 4, 5].map (26 + 6 * ch.val + ·))
  ∧ [CounterId.requests, .replayed, .overrun, .malformed, .broadcasts, .launched, .launchFailed
    , .returnRejects].map (fun c => c.id.val) = [74, 75, 76, 77, 78, 79, 80, 81]
  ∧ (∀ w : Word, wordBytes w =
      [w.extractLsb' 24 8, w.extractLsb' 16 8, w.extractLsb' 8 8, w.extractLsb' 0 8])
  ∧ ∀ (s : State) (b : Batch) (id : Byte) (clear : Bool), s.dev.AtOperation b (.counterRead id clear) →
    (82 ≤ id.toNat → exec (.counterRead id clear) s = s.nextWith
        (s.dev.withResult b (.counterRead id clear) .badOperand []))
    ∧ ∀ i : Fin 82, id.toNat = i.val →
      exec (.counterRead id clear) s = s.nextWith
        ((if clear then
          { s.dev with stats := { s.dev.stats with counters := s.dev.stats.counters.set i 0 } }
        else s.dev).withResult b (.counterRead id clear) .ok
          (wordBytes s.dev.stats.counters[i]))

/-- R140, R164: FAULT_READ. A read with clear of an EMPTY record changes nothing (log 17). The form of an
EMPTY record is zero but for OVERFLOW in byte 16, so 24 zero bytes at OVERFLOW 0 (Table 13.6); that of a
FILLED record is spelled in `ArbiterChoosesByShare`. -/
def Obligations.FaultRead : Prop :=
  (∀ overflow, faultForm none overflow =
      List.replicate 16 0 ++ [overflow] ++ List.replicate 7 0)
  ∧ faultForm none 0 = List.replicate 24 0
  ∧ ∀ (s : State) (b : Batch) (clear : Bool), s.dev.AtOperation b (.faultRead clear) →
    let data := faultForm s.dev.stats.record s.dev.stats.overflow
    (clear = false ∨ s.dev.stats.record = none → exec (.faultRead clear) s = s.nextWith
        (s.dev.withResult b (.faultRead clear) .ok data))
    ∧ (clear = true → s.dev.stats.record ≠ none →
      let waits := fun e : OriginEntry => e.body.kind = OriginKind.alert && !e.chosen
      exec (.faultRead clear) s = s.nextWith
        (Device.withResult
          { s.dev with
            stats := { s.dev.stats with
              record := none, overflow := 0
              alertPending := if s.dev.origin.any waits then false else s.dev.stats.alertPending }
            origin := s.dev.origin.filter fun e => !waits e }
          b (.faultRead clear) .ok data))

/-- R103, R141, R153: SEQ_RESET and SET_NODE. -/
def Obligations.SeqResetAndSetNode : Prop :=
  ∀ (s : State) (b : Batch),
    (∀ channel, s.dev.AtOperation b (.seqReset channel) →
      (8 ≤ channel.toNat → exec (.seqReset channel) s = s.nextWith
          (s.dev.withResult b (.seqReset channel) .badOperand []))
      ∧ ∀ c : Fin 8, channel.toNat = c.val →
        exec (.seqReset channel) s = s.nextWith
          ((s.dev.onChannel c fun x => { x with expect := false }).withResult b
            (.seqReset channel) .ok []))
    ∧ ∀ number, s.dev.AtOperation b (.setNode number) →
      (number = 0 ∨ 62 < number.toNat → exec (.setNode number) s = s.nextWith
          (s.dev.withResult b (.setNode number) .badOperand []))
      ∧ (1 ≤ number.toNat → number.toNat ≤ 62 → exec (.setNode number) s = s.nextWith
          (Device.withResult
            { s.dev with
              agent := { s.dev.agent with node := number.setWidth 6 }
              lap := { s.dev.lap with nodeChanged := true } }
            b (.setNode number) .ok []))

/-- R143, R144: ECHO and STATION_RESET record their results and change nothing. -/
def Obligations.EchoAndStationReset : Prop :=
  ∀ (s : State) (b : Batch),
    (∀ data, s.dev.AtOperation b (.echo data) →
      (data.length ≤ 56 → exec (.echo data) s = s.nextWith
          (s.dev.withResult b (.echo data) .ok data))
      ∧ (56 < data.length → exec (.echo data) s = s.nextWith
          (s.dev.withResult b (.echo data) .badOperand [])))
    ∧ (s.dev.AtOperation b .stationReset →
        exec .stationReset s = s.nextWith (s.dev.withResult b .stationReset .ok []))

/-- R131 to R133, Table 13.5: the end of a batch, and the layout of its reply, whose operation codes are
those of the records (Table 13.3). It leaves a station reset due if STATION_RESET ran (R145). -/
def Obligations.BatchEndAnswers : Prop :=
  (∀ o record, Op.LaidOut o record → record.head? = some (Op.code o))
  ∧ ∀ (s : State) (b : Batch) (q : RequestCopy) (rest : List RequestCopy),
    s.dev.Live → s.dev.agent.batch = some b → s.dev.agent.queue = q :: rest →
    (b.failed = true ∨ b.waiting = []) → s.dev.agent.resetDue = false →
    let results := b.results ++ b.waiting.map fun o =>
      { code := Op.code o, status := OpStatus.notRun, data := [] }
    let status := fun x : OpStatus => match x with
      | .ok => (0x00 : Byte) | .badAddress => 0x01 | .readOnly => 0x02 | .badOperand => 0x03
      | .badIndex => 0x04 | .badEntry => 0x05 | .notRun => 0x06
    let record := fun x : OpResult =>
      let n : Half := BitVec.ofNat 16 x.data.length
      [x.code, status x.status, n.extractLsb' 8 8, n.extractLsb' 0 8] ++ x.data
    let r : Reply :=
      { label := s.dev.agent.node.setWidth 16, source := s.dev.agent.node.setWidth 8, tag := q.tag
        payload := [if b.failed then 0x01 else 0x00, BitVec.ofNat 8 results.length]
          ++ results.flatMap record }
    let h : Header :=
      { kind := 3, seq := false, spareSeq := 0, spareHops := 0, hops := s.dev.egressCtl.injectHops
        label := r.label, length := BitVec.ofNat 16 r.payload.length, source := r.source, tag := q.tag }
    exec .batchEnd s = s.nextWith (arbitrate (Device.count .requests
      { s.dev with
        origin := s.dev.origin ++ [⟨.reply ⟨h, r.payload⟩, false⟩]
        agent := { s.dev.agent with
          queue := rest, batch := none
          lastTag := if q.tag = 0 then s.dev.agent.lastTag else q.tag
          replay := if q.tag = 0 then s.dev.agent.replay else some r
          resetDue := b.results.any fun r => r.code = 0x0C && r.status = .ok } }))

/-- R145, R146, Table 8.4: the station reset that a batch left due. Until it is applied no operation runs,
no batch ends, no request is started and no REPLY comes to its EOF; with none due it is no event
(log 20). -/
def Obligations.StationResetApplied : Prop :=
  (∀ s : State, s.dev.agent.resetDue = false → exec .stationResetApplied s = .next s)
  ∧ (∀ s : State, s.dev.agent.resetDue = true →
    (∀ o : Op, exec (Op.command o) s = .next s) ∧ exec .batchEnd s = .next s
      ∧ startRequest s.dev = s.dev
      ∧ ∀ p f sending, (s.dev.arbiter p).chosen = some { frame := .origin .reply f, sending } →
          exec (.txEof p) s = .next s)
  ∧ ∀ s : State, s.dev.Live → s.dev.agent.resetDue = true →
    ∃ e, exec .stationResetApplied s = s.nextWith e
      ∧ e.table.discardDown = false ∧ e.table.discardUp = false
      ∧ (∀ i : Fin 64, e.table.entries[i] =
          { valid := false, base := 0, order := 0, applies := .both, action := .forward
            translate := false, newBase := 0, channel := 0, hits := 0 })
      ∧ (∀ c, e.channel c =
          { enabled := false, seqCheck := false, quota := 8, clip := 1024, expect := false
            held := (s.dev.channel c).held, starved := false })
      ∧ e.capture = { s.dev.capture with channels := e.capture.channels }
      ∧ e.egressCtl = { injectShare := 4, injectHops := 63 }
      ∧ e.stats = { counters := Vector.replicate 82 0, record := none, overflow := 0, mask := 0xF6F
                    alertEnable := false, alertPending := false }
      ∧ e.origin = s.dev.origin.filter (fun x => !(x.body.kind = .alert && !x.chosen))
      ∧ e.agent = { s.dev.agent with lastTag := 0, replay := none, resetDue := false }
      ∧ e.ports = s.dev.ports ∧ e.enableB = s.dev.enableB ∧ e.egress = s.dev.egress
      ∧ e.launch = s.dev.launch ∧ e.lap = s.dev.lap ∧ e.pins = s.dev.pins
      ∧ e.choices = s.dev.choices

/-- R124, R126, R128: the start of the head request, and which payloads are MALFORMED: those that are not
1 to 16 whole records, with STATION_RESET last alone and no SET_NODE in a broadcast. -/
def Obligations.RequestStarted : Prop :=
  (∀ d : Device,
    (d.agent.batch ≠ none ∨ d.hasOrigin .reply = true ∨ d.agent.queue = [] → startRequest d = d)
    ∧ ∀ q rest, d.agent.batch = none → d.hasOrigin .reply = false → d.agent.resetDue = false →
      d.agent.queue = q :: rest →
      let e := if q.broadcast then d.count .broadcasts else d
      let malformed : Reply :=
        { label := d.agent.node.setWidth 16, source := d.agent.node.setWidth 8, tag := q.tag
          payload := [0x02, 0x00] }
      let entry := fun r : Reply => OriginEntry.mk (.reply
        { header := { kind := 3, seq := false, spareSeq := 0, spareHops := 0
                      hops := d.egressCtl.injectHops, label := r.label
                      length := BitVec.ofNat 16 r.payload.length, source := r.source, tag := r.tag }
          payload := r.payload }) false
      (∀ r, q.tag ≠ 0 → q.tag = d.agent.lastTag → d.agent.replay = some r →
        startRequest d =
          { e.count .replayed with
            origin := d.origin ++ [entry r], agent := { d.agent with queue := rest } })
      ∧ (q.tag = 0 ∨ q.tag ≠ d.agent.lastTag ∨ d.agent.replay = none →
        (parseRequest q.broadcast q.payload = none → startRequest d =
          { e.count .malformed with
            origin := d.origin ++ [entry malformed]
            agent := { d.agent with
              queue := rest
              lastTag := if q.tag = 0 then d.agent.lastTag else q.tag
              replay := if q.tag = 0 then d.agent.replay else some malformed } })
        ∧ ∀ ops, parseRequest q.broadcast q.payload = some ops →
          startRequest d =
            { e with agent := { d.agent with batch := some ⟨ops, [], false⟩ } }))
  ∧ ∀ (broadcast : Bool) (payload : List Byte) (ops : List Op),
      parseRequest broadcast payload = some ops ↔
        Op.listLaidOut ops payload ∧ 1 ≤ ops.length ∧ ops.length ≤ 16
          ∧ Op.stationReset ∉ ops.dropLast
          ∧ (broadcast = true → ∀ n, Op.setNode n ∉ ops)

/-! ## Local access port -/

/-- R171, R173, R187: a transaction begins and ends with LCS; an unknown command byte refuses it, alone
(log 2) or at its opening, and a complete write to a word that takes none sets ACCESS_FAULT and does no
more. While LRST or RESET is low the LAP ignores LCS and takes no word (R184); nor does it in a
transaction that is ignored, or with LCS low and no transaction (log 2). What a WRITE comes to next is
the next address, and what a READ does may lie behind words whose read has no command (log 3). -/
def Obligations.TransactionsFramedAndRefused : Prop :=
  let words := fun (v : Word) (address : Half) (word code : Byte) (slot : SlotId) (second : Bool) =>
    [Instr.localReset v, .localCauseWrite v, .localEnableWrite v, .noticeTake, .freeReturn v
    , .bufSelectWrite v, .bufDataRead word, .slotHeaderWrite slot second v, .slotSelectWrite v
    , .slotDataWrite word v, .slotHandover v, .slotRecall v, .lapBadCommand code
    , .lapReadOnlyWrite address v]
  (∀ d : Device, d.lapHeld = true ↔ d.pins.resetLow = true ∨ d.pins.lrstLow = true)
  ∧ (∀ d : Device, d.setAccessFault = { d with lap := { d.lap with accessFault := true } })
  ∧ (∀ (a : Half) (v : Word), Instr.WellFormed (.lapReadOnlyWrite a v) ↔
      a ∉ [0x0002, 0x0003, 0x0004, 0x0010, 0x0014, 0x0015, 0x0018, 0x0019]
        ∧ ¬(0x0020 ≤ a.toNat ∧ a.toNat ≤ 0x0027) ∧ ¬(0x0200 ≤ a.toNat ∧ a.toNat ≤ 0x02FF))
  ∧ (∀ next a : Half, (continues .write next a = true ↔ next = a)
      ∧ (continues .read next a = true ↔ next = a
        ∨ (a = 0x0008 ∧ (next.toNat ≤ 0x0008 ∨ 0x0200 ≤ next.toNat))
        ∨ (a = 0x0100 ∧ 0x0009 ≤ next.toNat ∧ next.toNat ≤ 0x0100)))
  ∧ (∀ s : State, s.dev.lapHeld = true →
    exec .transactionBegin s =
        s.nextWith ({ s.dev with pins := { s.dev.pins with lcsLow := true } })
    ∧ exec .transactionEnd s =
        s.nextWith ({ s.dev with pins := { s.dev.pins with lcsLow := false } })
    ∧ ∀ v address word code slot second, ∀ i ∈ words v address word code slot second,
        exec i s = .next s)
  ∧ ∀ s : State, s.dev.lapHeld = false →
    (s.dev.pins.lcsLow = false → exec .transactionBegin s = s.nextWith
        ({ s.dev with
          pins := { s.dev.pins with lcsLow := true }
          lap := { s.dev.lap with context := .opened, ldo := 0 } }))
    ∧ (s.dev.pins.lcsLow = true → exec .transactionBegin s = .next s)
    ∧ exec .transactionEnd s = s.nextWith
        ({ s.dev with
          pins := { s.dev.pins with lcsLow := false }
          lap := { s.dev.lap with context := .idle } })
    ∧ (∀ code : Byte, code ≠ 0x01 → code ≠ 0x02 →
      (s.dev.lap.context = .opened → exec (.lapBadCommand code) s = s.nextWith
        ({ s.dev with lap :=
            { s.dev.lap with accessFault := true, context := .ignored, ldo := 0 } }))
      ∧ (s.dev.lap.context = .idle → s.dev.pins.lcsLow = false →
        exec (.lapBadCommand code) s = s.nextWith
          ({ s.dev with lap := { s.dev.lap with accessFault := true, ldo := 0 } })))
    ∧ (s.dev.lap.context = .ignored ∨ s.dev.lap.context = .idle ∧ s.dev.pins.lcsLow = true →
      (∀ c a f, lapWord c a f s.dev = s.dev)
        ∧ ∀ v address word code slot second, ∀ i ∈ words v address word code slot second,
          exec i s = .next s)
    ∧ (∀ (address : Half) (v : Word), Instr.WellFormed (.lapReadOnlyWrite address v) →
      s.dev.WordDue .write address → exec (.lapReadOnlyWrite address v) s =
        s.nextWith (s.dev.wordDone s.dev.setAccessFault .write address 0))

/-- R174 to R177: the set and the clear of the edge causes, the enables, LATT, and what LOCAL_STATUS,
LOCAL_CAUSE and LOCAL_ENABLE read (log 3), with bits of no field 0 by the model's choice (log 26). -/
def Obligations.LocalCausesAndEnables : Prop :=
  (∀ d : Device, d.setLaunchDone = { d with lap := { d.lap with launchDone := true } }
    ∧ d.setStarvation = { d with lap := { d.lap with starvation := true } }
    ∧ d.setAccessFault = { d with lap := { d.lap with accessFault := true } })
  ∧ (∀ (s : State) (v : Word), s.dev.WordDue .write 0x0002 →
    exec (.localCauseWrite v) s = s.nextWith
      (s.dev.wordDone
        { s.dev with lap := { s.dev.lap with
            launchDone := s.dev.lap.launchDone && !v.getLsbD 1
            starvation := s.dev.lap.starvation && !v.getLsbD 2
            accessFault := s.dev.lap.accessFault && !v.getLsbD 3
            nodeChanged := s.dev.lap.nodeChanged && !v.getLsbD 4 } }
        .write 0x0002 0))
  ∧ (∀ (s : State) (v : Word), s.dev.WordDue .write 0x0003 →
    ∃ enables : BitVec 5, (∀ i < 5, enables.getLsbD i = v.getLsbD i)
      ∧ exec (.localEnableWrite v) s = s.nextWith
          (s.dev.wordDone { s.dev with lap := { s.dev.lap with enables } } .write 0x0003 0))
  ∧ (∀ d : Device, d.latt = true ↔
      ((d.capture.delivery ≠ [] ∧ d.lap.enables.getLsbD 0 = true)
        ∨ (d.lap.launchDone = true ∧ d.lap.enables.getLsbD 1 = true)
        ∨ (d.lap.starvation = true ∧ d.lap.enables.getLsbD 2 = true)
        ∨ (d.lap.accessFault = true ∧ d.lap.enables.getLsbD 3 = true)
        ∨ (d.lap.nodeChanged = true ∧ d.lap.enables.getLsbD 4 = true)))
  ∧ ∀ d : Device,
    let b := fun x : Bool => BitVec.ofBool x
    let link := fun P : Port =>
      (match P.link with | .offline => 0 | .seeking => 1 | .online => 2 : BitVec 2)
    lapRead .localCause d =
        ((0 : BitVec 27) ++ b d.lap.nodeChanged ++ b d.lap.accessFault ++ b d.lap.starvation
          ++ b d.lap.launchDone ++ b (!d.capture.delivery.isEmpty), d)
      ∧ lapRead .localEnable d = ((0 : BitVec 27) ++ d.lap.enables, d)
      ∧ lapRead .localStatus d =
        ((0 : BitVec 2) ++ BitVec.ofNat 6 d.capture.delivery.length
          ++ (0 : BitVec 2) ++ BitVec.ofNat 6 d.capture.free.length
          ++ (0 : BitVec 4) ++ link (d.port .b) ++ link (d.port .a) ++ (0 : BitVec 2) ++ d.agent.node, d)

/-- R179: BUF_SELECT and BUF_DATA, word i of which is at 0100H + i (Table 13.10). -/
def Obligations.BufferWindow : Prop :=
  (∀ i : Byte, bufDataAddress i = 0x0100 + i.setWidth 16)
  ∧ (∀ m a, memoryWord m a =
      Memory.read m a ++ Memory.read m (a + 1) ++ Memory.read m (a + 2) ++ Memory.read m (a + 3))
  ∧ ∀ s : State,
    (∀ v : Word, s.dev.WordDue .write 0x0018 →
      (∀ b : Fin 32, v.toNat = b.val → exec (.bufSelectWrite v) s = s.nextWith
          (s.dev.wordDone { s.dev with lap := { s.dev.lap with bufSelect := b } } .write 0x0018 0))
      ∧ (32 ≤ v.toNat → exec (.bufSelectWrite v) s = s.nextWith
          (s.dev.wordDone s.dev.setAccessFault .write 0x0018 0)))
    ∧ ∀ i : Byte, s.dev.WordDue .read (bufDataAddress i) →
      let b := s.dev.lap.bufSelect
      ((s.dev.buffer b).state = .taken → exec (.bufDataRead i) s = s.nextWith
          (s.dev.wordDone s.dev .read (bufDataAddress i)
            (memoryWord s.dev.capture.mem (1024 * b.val + 4 * i.toNat))))
      ∧ ((s.dev.buffer b).state ≠ .taken → exec (.bufDataRead i) s = s.nextWith
          (s.dev.wordDone s.dev.setAccessFault .read (bufDataAddress i) 0))

/-- R108, R181, R182: SLOT_SELECT, SLOT_HEADER and SLOT_DATA, written, and what they read (Table 13.12;
log 3), with bits of no field 0 by the model's choice (log 26), at the addresses of Table 13.10. -/
def Obligations.SlotWindow : Prop :=
  (∀ (d : Device) (k : SlotId) (i : Byte),
    lapRead .slotSelect d = (BitVec.ofNat 32 (slotNumber d.lap.slotSelect), d)
    ∧ lapRead (.slotHeader k false) d = ((d.slot k).label ++ (d.slot k).length, d)
    ∧ lapRead (.slotHeader k true) d =
      ((0 : BitVec 13)
        ++ (match (d.slot k).status with
          | .none => 0 | .sent => 1 | .linkDown => 2 | .unnumbered => 3 | .badLength => 4
          | .recalled => 5 : BitVec 3)
        ++ (0 : BitVec 6)
        ++ (match (d.slot k).owner with | .free => 0 | .waiting => 1 | .committed => 2 : BitVec 2)
        ++ (0 : BitVec 6) ++ (match (d.slot k).seqMode with | .auto => 0 | .repeated => 1 : BitVec 2), d)
    ∧ lapRead (.slotData i) d =
      (memoryWord d.launch.mem (1024 * slotNumber d.lap.slotSelect + 4 * i.toNat), d))
  ∧ (slotNumber ⟨.a, .even⟩ = 0 ∧ slotNumber ⟨.a, .odd⟩ = 1 ∧ slotNumber ⟨.b, .even⟩ = 2
    ∧ slotNumber ⟨.b, .odd⟩ = 3)
  ∧ (∀ k, (slotHeaderAddress k false).toNat = 0x0020 + 2 * slotNumber k
    ∧ (slotHeaderAddress k true).toNat = 0x0021 + 2 * slotNumber k)
  ∧ (∀ i : Byte, slotDataAddress i = 0x0200 + i.setWidth 16)
  ∧ (∀ m a, memoryWord m a =
      Memory.read m a ++ Memory.read m (a + 1) ++ Memory.read m (a + 2) ++ Memory.read m (a + 3))
  ∧ ∀ (s : State) (v : Word),
    (s.dev.WordDue .write 0x0019 →
      (∀ k, v.toNat = slotNumber k → exec (.slotSelectWrite v) s = s.nextWith
          (s.dev.wordDone { s.dev with lap := { s.dev.lap with slotSelect := k } } .write 0x0019 0))
      ∧ (4 ≤ v.toNat → exec (.slotSelectWrite v) s = s.nextWith
          (s.dev.wordDone s.dev.setAccessFault .write 0x0019 0)))
    ∧ (∀ k second, s.dev.WordDue .write (slotHeaderAddress k second) →
      let done := fun e => s.dev.wordDone e .write (slotHeaderAddress k second) 0
      ((s.dev.slot k).owner ≠ .free → exec (.slotHeaderWrite k second v) s =
          s.nextWith (done s.dev.setAccessFault))
      ∧ ((s.dev.slot k).owner = .free → second = false → exec (.slotHeaderWrite k second v) s =
          s.nextWith (done (s.dev.onSlot k fun x =>
            { x with label := v.extractLsb' 16 16, length := v.extractLsb' 0 16 })))
      ∧ ((s.dev.slot k).owner = .free → second = true → exec (.slotHeaderWrite k second v) s =
          s.nextWith (done (s.dev.onSlot k fun x =>
            { x with seqMode := if v.extractLsb' 0 2 = 1 then .repeated else .auto }))))
    ∧ ∀ i : Byte, s.dev.WordDue .write (slotDataAddress i) →
      let k := s.dev.lap.slotSelect
      let done := fun e => s.dev.wordDone e .write (slotDataAddress i) 0
      let first := 1024 * slotNumber k + 4 * i.toNat
      let written := Memory.writeBytes s.dev.launch.mem first (wordBytes v)
      ((s.dev.slot k).owner ≠ .free → exec (.slotDataWrite i v) s =
          s.nextWith (done s.dev.setAccessFault))
      ∧ ((s.dev.slot k).owner = .free → exec (.slotDataWrite i v) s =
          s.nextWith (done { s.dev with launch := { s.dev.launch with mem := written } }))
      ∧ (Memory.wf s.dev.launch.mem →
          memoryWord written first = v
            ∧ ∀ a, (a < first ∨ first + 4 ≤ a) →
                Memory.read written a = Memory.read s.dev.launch.mem a)

/-- R109, R110: a handover, refused or taken; and R111, R112, R113, R116: how the launch unit deals with a
NEXT slot, the two of a direction taking turns, at most twice in one event. -/
def Obligations.HandoverOffersOrRefuses : Prop :=
  (Parity.even.other = .odd ∧ Parity.odd.other = .even)
  ∧ (∀ d : Device, d.nextParity .a = d.launch.next.a ∧ d.nextParity .b = d.launch.next.b
    ∧ d.setLaunchDone = { d with lap := { d.lap with launchDone := true } })
  ∧ (∀ (s : State) (v : Word), s.dev.WordDue .write 0x0014 →
    let done := fun e => s.dev.wordDone e .write 0x0014 0
    (4 ≤ v.toNat → exec (.slotHandover v) s = s.nextWith (done s.dev.setAccessFault))
    ∧ ∀ k, v.toNat = slotNumber k →
      ((s.dev.slot k).owner ≠ .free →
        exec (.slotHandover v) s = s.nextWith (done s.dev.setAccessFault))
      ∧ ((s.dev.slot k).owner = .free → 1024 < (s.dev.slot k).length.toNat →
        exec (.slotHandover v) s = s.nextWith
          (done (s.dev.onSlot k fun x => { x with status := .badLength }).setLaunchDone))
      ∧ ((s.dev.slot k).owner = .free → (s.dev.slot k).length.toNat ≤ 1024 →
        exec (.slotHandover v) s = s.nextWith (done (arbitrate (dealSlots k.port
          (s.dev.onSlot k fun x => { x with status := .none, owner := .waiting, offered := none }))))))
  ∧ ∀ (p : PortId) (d : Device),
      let k := d.nextParity p
      let slot := d.slot ⟨p, k⟩
      let txSeq := d.launch.txSeq.get p
      let seq := match slot.seqMode with | .auto => txSeq | .repeated => !txSeq
      dealSlots p d = dealNext p (dealNext p d)
        ∧ (slot.owner ≠ .waiting ∨ slot.offered ≠ none → dealNext p d = d)
        ∧ (slot.owner = .waiting → slot.offered = none →
          ((d.port p).link ≠ .online → d.SlotCompleted (dealNext p d) ⟨p, k⟩ .linkDown)
          ∧ ((d.port p).link = .online → d.agent.node = 0 →
              d.SlotCompleted (dealNext p d) ⟨p, k⟩ .unnumbered)
          ∧ ((d.port p).link = .online → d.agent.node ≠ 0 →
              dealNext p d = d.onSlot ⟨p, k⟩ fun x =>
                { x with offered := some (OfferedHeader.mk seq d.egressCtl.injectHops
                    (d.agent.node.setWidth 8)) }))

/-- R118: a recall, by the state of the slot. -/
def Obligations.RecallTakesBack : Prop :=
  ∀ (s : State) (v : Word), s.dev.WordDue .write 0x0015 →
    let done := fun e => s.dev.wordDone e .write 0x0015 0
    (4 ≤ v.toNat → exec (.slotRecall v) s = s.nextWith (done s.dev.setAccessFault))
    ∧ ∀ k, v.toNat = slotNumber k →
      ((s.dev.slot k).owner = .waiting → exec (.slotRecall v) s = s.nextWith
        (done (s.dev.onSlot k fun x =>
          { x with owner := .free, status := .recalled, offered := none }).setLaunchDone))
      ∧ ((s.dev.slot k).owner ≠ .waiting → exec (.slotRecall v) s =
        s.nextWith (done s.dev))

/-! ## Invariants of every step -/

/-- R23. -/
def Obligations.StepKeepsCreditAccounts : Prop :=
  ∀ s t : State, s.dev.AccountsKept → step s = .next t → t.dev.AccountsKept

/-- R16, R19, R26, R71. -/
def Obligations.StepKeepsCountsAndLinks : Prop :=
  ∀ s t : State, s.dev.CountsInRange → s.dev.LinksLegal → step s = .next t →
    t.dev.CountsInRange ∧ t.dev.LinksLegal

/-- R17, R20, R70, R72, R75. -/
def Obligations.StepKeepsDownPortsQuiet : Prop :=
  ∀ s t : State, s.dev.DownPortsQuiet → s.dev.TransmittersFollow → step s = .next t →
    t.dev.DownPortsQuiet ∧ t.dev.TransmittersFollow

/-- R29, R34, R35, R63, R86, R92, in a part whose accounts are kept (`StepKeepsCreditAccounts`), so that
no frame is charged before its header is complete. -/
def Obligations.StepKeepsResidentsUsed : Prop :=
  ∀ s t : State, s.dev.AccountsKept → s.dev.ReceptionsCharged → s.dev.ResidentsUsed →
    step s = .next t → t.dev.ReceptionsCharged ∧ t.dev.ResidentsUsed

/-- R39, R73, R79. -/
def Obligations.StepKeepsConfigurationLegal : Prop :=
  ∀ s t : State, s.dev.TableWellFormed → s.dev.ControlInRange → step s = .next t →
    t.dev.TableWellFormed ∧ t.dev.ControlInRange

/-- R66, R72, R123, R124, R145, R168. -/
def Obligations.StepKeepsOriginList : Prop :=
  ∀ s t : State, s.dev.OriginKept → step s = .next t → t.dev.OriginKept

/-- R3, R125, R154: the node number is legal and, once given, is taken away by a full reset alone. -/
def Obligations.StepKeepsNodeAndReplay : Prop :=
  ∀ s t : State, s.dev.agent.NodeLegal → s.dev.agent.ReplayTagged → step s = .next t →
    t.dev.agent.NodeLegal ∧ t.dev.agent.ReplayTagged
      ∧ (s.dev.agent.node ≠ 0 → (∀ high, s.pending.head? ≠ some (.fullReset high)) →
          t.dev.agent.node ≠ 0)

/-- R80, R88, R89, R92, R97. -/
def Obligations.StepKeepsPoolInCircuit : Prop :=
  ∀ s t : State, s.dev.capture.PoolInCircuit → step s = .next t → t.dev.capture.PoolInCircuit

/-- The byte memories stay canonical, and notices stay true to their lengths (R86, R97). -/
def Obligations.StepKeepsMemoriesAndNotices : Prop :=
  ∀ s t : State, s.dev.MemoriesCanonical → s.dev.NoticesAgree → step s = .next t →
    t.dev.MemoriesCanonical ∧ t.dev.NoticesAgree

/-- R108, R109, R111 to R115, R117. -/
def Obligations.StepKeepsLaunchInTurn : Prop :=
  ∀ s t : State, s.dev.LaunchInTurn → step s = .next t → t.dev.LaunchInTurn

/-- R157, R162: no counter falls, and a FILLED record keeps its fault, but by the commands that clear
them. R162, R163: an EMPTY record has OVERFLOW 0, after every command. -/
def Obligations.CountersAndRecordHeld : Prop :=
  (∀ s t : State, s.dev.stats.OverflowAgrees → step s = .next t → t.dev.stats.OverflowAgrees)
  ∧ ∀ s t : State, step s = .next t →
    (∀ high, s.pending.head? ≠ some (.fullReset high)) →
    s.pending.head? ≠ some .stationResetApplied →
    ((∀ id, s.pending.head? ≠ some (.counterRead id true)) →
      ∀ i : Fin 82, s.dev.stats.counters[i] ≤ t.dev.stats.counters[i])
    ∧ (s.pending.head? ≠ some (.faultRead true) → s.dev.stats.record ≠ none →
      t.dev.stats.record = s.dev.stats.record ∧ s.dev.stats.overflow ≤ t.dev.stats.overflow)

/-- Every invariant holds of the part right after a full reset. -/
def Obligations.InvariantsHoldAtReset : Prop :=
  Device.reset.AccountsKept ∧ Device.reset.CountsInRange ∧ Device.reset.LinksLegal
    ∧ Device.reset.DownPortsQuiet ∧ Device.reset.TransmittersFollow
    ∧ Device.reset.ReceptionsCharged ∧ Device.reset.ResidentsUsed
    ∧ Device.reset.TableWellFormed ∧ Device.reset.ControlInRange ∧ Device.reset.OriginKept
    ∧ Device.reset.agent.NodeLegal ∧ Device.reset.agent.ReplayTagged
    ∧ Device.reset.capture.PoolInCircuit ∧ Device.reset.MemoriesCanonical
    ∧ Device.reset.NoticesAgree ∧ Device.reset.LaunchInTurn ∧ Device.reset.stats.OverflowAgrees
end

