-- ==== Sys2Proof/Laws/State.lean ====
section
/-! SUPPORT. What each update of the part leaves unchanged, one lemma for each field of `Device`; and what
`get` reads after `set`. All hold by computation. -/

namespace Sys2Proof

/-! ## Per-port and per-slot values -/

@[simp] theorem PortId.opposite_opposite (p : PortId) : p.opposite.opposite = p := by cases p <;> rfl

theorem PortId.opposite_ne (p : PortId) : p.opposite ≠ p := by cases p <;> decide

theorem PortId.eq_or_opposite (p q : PortId) : q = p ∨ q = p.opposite := by cases p <;> cases q <;> decide

@[simp] theorem Parity.other_other (k : Parity) : k.other.other = k := by cases k <;> rfl

theorem Parity.other_ne (k : Parity) : k.other ≠ k := by cases k <;> decide

@[simp] theorem PerPort.get_set_self {α : Type} (x : PerPort α) (p : PortId) (v : α) :
    (x.set p v).get p = v := by cases p <;> rfl

theorem PerPort.get_set_ne {α : Type} (x : PerPort α) {p q : PortId} (v : α) (h : q ≠ p) :
    (x.set p v).get q = x.get q := by cases p <;> cases q <;> first | rfl | exact absurd rfl h

theorem PerPort.get_set {α : Type} (x : PerPort α) (p q : PortId) (v : α) :
    (x.set p v).get q = if q = p then v else x.get q := by cases p <;> cases q <;> rfl

@[simp] theorem Pair.get_set_self {α : Type} (x : Pair α) (k : Parity) (v : α) :
    (x.set k v).get k = v := by cases k <;> rfl

theorem Pair.get_set {α : Type} (x : Pair α) (k j : Parity) (v : α) :
    (x.set k v).get j = if j = k then v else x.get j := by cases k <;> cases j <;> rfl

namespace Machine

/-! ## The fields an update leaves -/

@[simp] theorem Device.onPort_pins (p : PortId) (f : Port → Port) (d : Device) : (d.onPort p f).pins = d.pins := rfl
@[simp] theorem Device.onPort_enableB (p : PortId) (f : Port → Port) (d : Device) : (d.onPort p f).enableB = d.enableB := rfl
@[simp] theorem Device.onPort_egress (p : PortId) (f : Port → Port) (d : Device) : (d.onPort p f).egress = d.egress := rfl
@[simp] theorem Device.onPort_origin (p : PortId) (f : Port → Port) (d : Device) : (d.onPort p f).origin = d.origin := rfl
@[simp] theorem Device.onPort_egressCtl (p : PortId) (f : Port → Port) (d : Device) : (d.onPort p f).egressCtl = d.egressCtl := rfl
@[simp] theorem Device.onPort_table (p : PortId) (f : Port → Port) (d : Device) : (d.onPort p f).table = d.table := rfl
@[simp] theorem Device.onPort_capture (p : PortId) (f : Port → Port) (d : Device) : (d.onPort p f).capture = d.capture := rfl
@[simp] theorem Device.onPort_launch (p : PortId) (f : Port → Port) (d : Device) : (d.onPort p f).launch = d.launch := rfl
@[simp] theorem Device.onPort_agent (p : PortId) (f : Port → Port) (d : Device) : (d.onPort p f).agent = d.agent := rfl
@[simp] theorem Device.onPort_stats (p : PortId) (f : Port → Port) (d : Device) : (d.onPort p f).stats = d.stats := rfl
@[simp] theorem Device.onPort_lap (p : PortId) (f : Port → Port) (d : Device) : (d.onPort p f).lap = d.lap := rfl
@[simp] theorem Device.onPort_choices (p : PortId) (f : Port → Port) (d : Device) : (d.onPort p f).choices = d.choices := rfl

@[simp] theorem Device.onArbiter_pins (p : PortId) (f : Egress → Egress) (d : Device) : (d.onArbiter p f).pins = d.pins := rfl
@[simp] theorem Device.onArbiter_ports (p : PortId) (f : Egress → Egress) (d : Device) : (d.onArbiter p f).ports = d.ports := rfl
@[simp] theorem Device.onArbiter_enableB (p : PortId) (f : Egress → Egress) (d : Device) : (d.onArbiter p f).enableB = d.enableB := rfl
@[simp] theorem Device.onArbiter_origin (p : PortId) (f : Egress → Egress) (d : Device) : (d.onArbiter p f).origin = d.origin := rfl
@[simp] theorem Device.onArbiter_egressCtl (p : PortId) (f : Egress → Egress) (d : Device) : (d.onArbiter p f).egressCtl = d.egressCtl := rfl
@[simp] theorem Device.onArbiter_table (p : PortId) (f : Egress → Egress) (d : Device) : (d.onArbiter p f).table = d.table := rfl
@[simp] theorem Device.onArbiter_capture (p : PortId) (f : Egress → Egress) (d : Device) : (d.onArbiter p f).capture = d.capture := rfl
@[simp] theorem Device.onArbiter_launch (p : PortId) (f : Egress → Egress) (d : Device) : (d.onArbiter p f).launch = d.launch := rfl
@[simp] theorem Device.onArbiter_agent (p : PortId) (f : Egress → Egress) (d : Device) : (d.onArbiter p f).agent = d.agent := rfl
@[simp] theorem Device.onArbiter_stats (p : PortId) (f : Egress → Egress) (d : Device) : (d.onArbiter p f).stats = d.stats := rfl
@[simp] theorem Device.onArbiter_lap (p : PortId) (f : Egress → Egress) (d : Device) : (d.onArbiter p f).lap = d.lap := rfl
@[simp] theorem Device.onArbiter_choices (p : PortId) (f : Egress → Egress) (d : Device) : (d.onArbiter p f).choices = d.choices := rfl

@[simp] theorem Device.onSlot_pins (k : SlotId) (f : Slot → Slot) (d : Device) : (d.onSlot k f).pins = d.pins := rfl
@[simp] theorem Device.onSlot_ports (k : SlotId) (f : Slot → Slot) (d : Device) : (d.onSlot k f).ports = d.ports := rfl
@[simp] theorem Device.onSlot_enableB (k : SlotId) (f : Slot → Slot) (d : Device) : (d.onSlot k f).enableB = d.enableB := rfl
@[simp] theorem Device.onSlot_egress (k : SlotId) (f : Slot → Slot) (d : Device) : (d.onSlot k f).egress = d.egress := rfl
@[simp] theorem Device.onSlot_origin (k : SlotId) (f : Slot → Slot) (d : Device) : (d.onSlot k f).origin = d.origin := rfl
@[simp] theorem Device.onSlot_egressCtl (k : SlotId) (f : Slot → Slot) (d : Device) : (d.onSlot k f).egressCtl = d.egressCtl := rfl
@[simp] theorem Device.onSlot_table (k : SlotId) (f : Slot → Slot) (d : Device) : (d.onSlot k f).table = d.table := rfl
@[simp] theorem Device.onSlot_capture (k : SlotId) (f : Slot → Slot) (d : Device) : (d.onSlot k f).capture = d.capture := rfl
@[simp] theorem Device.onSlot_agent (k : SlotId) (f : Slot → Slot) (d : Device) : (d.onSlot k f).agent = d.agent := rfl
@[simp] theorem Device.onSlot_stats (k : SlotId) (f : Slot → Slot) (d : Device) : (d.onSlot k f).stats = d.stats := rfl
@[simp] theorem Device.onSlot_lap (k : SlotId) (f : Slot → Slot) (d : Device) : (d.onSlot k f).lap = d.lap := rfl
@[simp] theorem Device.onSlot_choices (k : SlotId) (f : Slot → Slot) (d : Device) : (d.onSlot k f).choices = d.choices := rfl

@[simp] theorem Device.onChannel_pins (c : Fin 8) (f : Channel → Channel) (d : Device) : (d.onChannel c f).pins = d.pins := rfl
@[simp] theorem Device.onChannel_ports (c : Fin 8) (f : Channel → Channel) (d : Device) : (d.onChannel c f).ports = d.ports := rfl
@[simp] theorem Device.onChannel_enableB (c : Fin 8) (f : Channel → Channel) (d : Device) : (d.onChannel c f).enableB = d.enableB := rfl
@[simp] theorem Device.onChannel_egress (c : Fin 8) (f : Channel → Channel) (d : Device) : (d.onChannel c f).egress = d.egress := rfl
@[simp] theorem Device.onChannel_origin (c : Fin 8) (f : Channel → Channel) (d : Device) : (d.onChannel c f).origin = d.origin := rfl
@[simp] theorem Device.onChannel_egressCtl (c : Fin 8) (f : Channel → Channel) (d : Device) : (d.onChannel c f).egressCtl = d.egressCtl := rfl
@[simp] theorem Device.onChannel_table (c : Fin 8) (f : Channel → Channel) (d : Device) : (d.onChannel c f).table = d.table := rfl
@[simp] theorem Device.onChannel_launch (c : Fin 8) (f : Channel → Channel) (d : Device) : (d.onChannel c f).launch = d.launch := rfl
@[simp] theorem Device.onChannel_agent (c : Fin 8) (f : Channel → Channel) (d : Device) : (d.onChannel c f).agent = d.agent := rfl
@[simp] theorem Device.onChannel_stats (c : Fin 8) (f : Channel → Channel) (d : Device) : (d.onChannel c f).stats = d.stats := rfl
@[simp] theorem Device.onChannel_lap (c : Fin 8) (f : Channel → Channel) (d : Device) : (d.onChannel c f).lap = d.lap := rfl
@[simp] theorem Device.onChannel_choices (c : Fin 8) (f : Channel → Channel) (d : Device) : (d.onChannel c f).choices = d.choices := rfl

@[simp] theorem Device.onBuffer_pins (b : Fin 32) (f : Buffer → Buffer) (d : Device) : (d.onBuffer b f).pins = d.pins := rfl
@[simp] theorem Device.onBuffer_ports (b : Fin 32) (f : Buffer → Buffer) (d : Device) : (d.onBuffer b f).ports = d.ports := rfl
@[simp] theorem Device.onBuffer_enableB (b : Fin 32) (f : Buffer → Buffer) (d : Device) : (d.onBuffer b f).enableB = d.enableB := rfl
@[simp] theorem Device.onBuffer_egress (b : Fin 32) (f : Buffer → Buffer) (d : Device) : (d.onBuffer b f).egress = d.egress := rfl
@[simp] theorem Device.onBuffer_origin (b : Fin 32) (f : Buffer → Buffer) (d : Device) : (d.onBuffer b f).origin = d.origin := rfl
@[simp] theorem Device.onBuffer_egressCtl (b : Fin 32) (f : Buffer → Buffer) (d : Device) : (d.onBuffer b f).egressCtl = d.egressCtl := rfl
@[simp] theorem Device.onBuffer_table (b : Fin 32) (f : Buffer → Buffer) (d : Device) : (d.onBuffer b f).table = d.table := rfl
@[simp] theorem Device.onBuffer_launch (b : Fin 32) (f : Buffer → Buffer) (d : Device) : (d.onBuffer b f).launch = d.launch := rfl
@[simp] theorem Device.onBuffer_agent (b : Fin 32) (f : Buffer → Buffer) (d : Device) : (d.onBuffer b f).agent = d.agent := rfl
@[simp] theorem Device.onBuffer_stats (b : Fin 32) (f : Buffer → Buffer) (d : Device) : (d.onBuffer b f).stats = d.stats := rfl
@[simp] theorem Device.onBuffer_lap (b : Fin 32) (f : Buffer → Buffer) (d : Device) : (d.onBuffer b f).lap = d.lap := rfl
@[simp] theorem Device.onBuffer_choices (b : Fin 32) (f : Buffer → Buffer) (d : Device) : (d.onBuffer b f).choices = d.choices := rfl

@[simp] theorem Device.onEntry_pins (i : Fin 64) (f : Entry → Entry) (d : Device) : (d.onEntry i f).pins = d.pins := rfl
@[simp] theorem Device.onEntry_ports (i : Fin 64) (f : Entry → Entry) (d : Device) : (d.onEntry i f).ports = d.ports := rfl
@[simp] theorem Device.onEntry_enableB (i : Fin 64) (f : Entry → Entry) (d : Device) : (d.onEntry i f).enableB = d.enableB := rfl
@[simp] theorem Device.onEntry_egress (i : Fin 64) (f : Entry → Entry) (d : Device) : (d.onEntry i f).egress = d.egress := rfl
@[simp] theorem Device.onEntry_origin (i : Fin 64) (f : Entry → Entry) (d : Device) : (d.onEntry i f).origin = d.origin := rfl
@[simp] theorem Device.onEntry_egressCtl (i : Fin 64) (f : Entry → Entry) (d : Device) : (d.onEntry i f).egressCtl = d.egressCtl := rfl
@[simp] theorem Device.onEntry_capture (i : Fin 64) (f : Entry → Entry) (d : Device) : (d.onEntry i f).capture = d.capture := rfl
@[simp] theorem Device.onEntry_launch (i : Fin 64) (f : Entry → Entry) (d : Device) : (d.onEntry i f).launch = d.launch := rfl
@[simp] theorem Device.onEntry_agent (i : Fin 64) (f : Entry → Entry) (d : Device) : (d.onEntry i f).agent = d.agent := rfl
@[simp] theorem Device.onEntry_stats (i : Fin 64) (f : Entry → Entry) (d : Device) : (d.onEntry i f).stats = d.stats := rfl
@[simp] theorem Device.onEntry_lap (i : Fin 64) (f : Entry → Entry) (d : Device) : (d.onEntry i f).lap = d.lap := rfl
@[simp] theorem Device.onEntry_choices (i : Fin 64) (f : Entry → Entry) (d : Device) : (d.onEntry i f).choices = d.choices := rfl

@[simp] theorem Device.onAgent_pins (f : Agent → Agent) (d : Device) : (d.onAgent f).pins = d.pins := rfl
@[simp] theorem Device.onAgent_ports (f : Agent → Agent) (d : Device) : (d.onAgent f).ports = d.ports := rfl
@[simp] theorem Device.onAgent_enableB (f : Agent → Agent) (d : Device) : (d.onAgent f).enableB = d.enableB := rfl
@[simp] theorem Device.onAgent_egress (f : Agent → Agent) (d : Device) : (d.onAgent f).egress = d.egress := rfl
@[simp] theorem Device.onAgent_origin (f : Agent → Agent) (d : Device) : (d.onAgent f).origin = d.origin := rfl
@[simp] theorem Device.onAgent_egressCtl (f : Agent → Agent) (d : Device) : (d.onAgent f).egressCtl = d.egressCtl := rfl
@[simp] theorem Device.onAgent_table (f : Agent → Agent) (d : Device) : (d.onAgent f).table = d.table := rfl
@[simp] theorem Device.onAgent_capture (f : Agent → Agent) (d : Device) : (d.onAgent f).capture = d.capture := rfl
@[simp] theorem Device.onAgent_launch (f : Agent → Agent) (d : Device) : (d.onAgent f).launch = d.launch := rfl
@[simp] theorem Device.onAgent_stats (f : Agent → Agent) (d : Device) : (d.onAgent f).stats = d.stats := rfl
@[simp] theorem Device.onAgent_lap (f : Agent → Agent) (d : Device) : (d.onAgent f).lap = d.lap := rfl
@[simp] theorem Device.onAgent_choices (f : Agent → Agent) (d : Device) : (d.onAgent f).choices = d.choices := rfl

@[simp] theorem Device.onLap_pins (f : Lap → Lap) (d : Device) : (d.onLap f).pins = d.pins := rfl
@[simp] theorem Device.onLap_ports (f : Lap → Lap) (d : Device) : (d.onLap f).ports = d.ports := rfl
@[simp] theorem Device.onLap_enableB (f : Lap → Lap) (d : Device) : (d.onLap f).enableB = d.enableB := rfl
@[simp] theorem Device.onLap_egress (f : Lap → Lap) (d : Device) : (d.onLap f).egress = d.egress := rfl
@[simp] theorem Device.onLap_origin (f : Lap → Lap) (d : Device) : (d.onLap f).origin = d.origin := rfl
@[simp] theorem Device.onLap_egressCtl (f : Lap → Lap) (d : Device) : (d.onLap f).egressCtl = d.egressCtl := rfl
@[simp] theorem Device.onLap_table (f : Lap → Lap) (d : Device) : (d.onLap f).table = d.table := rfl
@[simp] theorem Device.onLap_capture (f : Lap → Lap) (d : Device) : (d.onLap f).capture = d.capture := rfl
@[simp] theorem Device.onLap_launch (f : Lap → Lap) (d : Device) : (d.onLap f).launch = d.launch := rfl
@[simp] theorem Device.onLap_agent (f : Lap → Lap) (d : Device) : (d.onLap f).agent = d.agent := rfl
@[simp] theorem Device.onLap_stats (f : Lap → Lap) (d : Device) : (d.onLap f).stats = d.stats := rfl
@[simp] theorem Device.onLap_choices (f : Lap → Lap) (d : Device) : (d.onLap f).choices = d.choices := rfl

@[simp] theorem Device.count_pins (c : CounterId) (d : Device) : (d.count c).pins = d.pins := rfl
@[simp] theorem Device.count_ports (c : CounterId) (d : Device) : (d.count c).ports = d.ports := rfl
@[simp] theorem Device.count_enableB (c : CounterId) (d : Device) : (d.count c).enableB = d.enableB := rfl
@[simp] theorem Device.count_egress (c : CounterId) (d : Device) : (d.count c).egress = d.egress := rfl
@[simp] theorem Device.count_origin (c : CounterId) (d : Device) : (d.count c).origin = d.origin := rfl
@[simp] theorem Device.count_egressCtl (c : CounterId) (d : Device) : (d.count c).egressCtl = d.egressCtl := rfl
@[simp] theorem Device.count_table (c : CounterId) (d : Device) : (d.count c).table = d.table := rfl
@[simp] theorem Device.count_capture (c : CounterId) (d : Device) : (d.count c).capture = d.capture := rfl
@[simp] theorem Device.count_launch (c : CounterId) (d : Device) : (d.count c).launch = d.launch := rfl
@[simp] theorem Device.count_agent (c : CounterId) (d : Device) : (d.count c).agent = d.agent := rfl
@[simp] theorem Device.count_lap (c : CounterId) (d : Device) : (d.count c).lap = d.lap := rfl
@[simp] theorem Device.count_choices (c : CounterId) (d : Device) : (d.count c).choices = d.choices := rfl

@[simp] theorem Device.setAlertPending_pins (v : Bool) (d : Device) : (d.setAlertPending v).pins = d.pins := rfl
@[simp] theorem Device.setAlertPending_ports (v : Bool) (d : Device) : (d.setAlertPending v).ports = d.ports := rfl
@[simp] theorem Device.setAlertPending_enableB (v : Bool) (d : Device) : (d.setAlertPending v).enableB = d.enableB := rfl
@[simp] theorem Device.setAlertPending_egress (v : Bool) (d : Device) : (d.setAlertPending v).egress = d.egress := rfl
@[simp] theorem Device.setAlertPending_origin (v : Bool) (d : Device) : (d.setAlertPending v).origin = d.origin := rfl
@[simp] theorem Device.setAlertPending_egressCtl (v : Bool) (d : Device) : (d.setAlertPending v).egressCtl = d.egressCtl := rfl
@[simp] theorem Device.setAlertPending_table (v : Bool) (d : Device) : (d.setAlertPending v).table = d.table := rfl
@[simp] theorem Device.setAlertPending_capture (v : Bool) (d : Device) : (d.setAlertPending v).capture = d.capture := rfl
@[simp] theorem Device.setAlertPending_launch (v : Bool) (d : Device) : (d.setAlertPending v).launch = d.launch := rfl
@[simp] theorem Device.setAlertPending_agent (v : Bool) (d : Device) : (d.setAlertPending v).agent = d.agent := rfl
@[simp] theorem Device.setAlertPending_lap (v : Bool) (d : Device) : (d.setAlertPending v).lap = d.lap := rfl
@[simp] theorem Device.setAlertPending_choices (v : Bool) (d : Device) : (d.setAlertPending v).choices = d.choices := rfl

@[simp] theorem Device.placeOrigin_pins (b : OriginBody) (d : Device) : (d.placeOrigin b).pins = d.pins := rfl
@[simp] theorem Device.placeOrigin_ports (b : OriginBody) (d : Device) : (d.placeOrigin b).ports = d.ports := rfl
@[simp] theorem Device.placeOrigin_enableB (b : OriginBody) (d : Device) : (d.placeOrigin b).enableB = d.enableB := rfl
@[simp] theorem Device.placeOrigin_egress (b : OriginBody) (d : Device) : (d.placeOrigin b).egress = d.egress := rfl
@[simp] theorem Device.placeOrigin_egressCtl (b : OriginBody) (d : Device) : (d.placeOrigin b).egressCtl = d.egressCtl := rfl
@[simp] theorem Device.placeOrigin_table (b : OriginBody) (d : Device) : (d.placeOrigin b).table = d.table := rfl
@[simp] theorem Device.placeOrigin_capture (b : OriginBody) (d : Device) : (d.placeOrigin b).capture = d.capture := rfl
@[simp] theorem Device.placeOrigin_launch (b : OriginBody) (d : Device) : (d.placeOrigin b).launch = d.launch := rfl
@[simp] theorem Device.placeOrigin_agent (b : OriginBody) (d : Device) : (d.placeOrigin b).agent = d.agent := rfl
@[simp] theorem Device.placeOrigin_stats (b : OriginBody) (d : Device) : (d.placeOrigin b).stats = d.stats := rfl
@[simp] theorem Device.placeOrigin_lap (b : OriginBody) (d : Device) : (d.placeOrigin b).lap = d.lap := rfl
@[simp] theorem Device.placeOrigin_choices (b : OriginBody) (d : Device) : (d.placeOrigin b).choices = d.choices := rfl

@[simp] theorem Device.setChosen_pins (p : PortId) (c : ChosenFrame) (d : Device) : (d.setChosen p c).pins = d.pins := rfl
@[simp] theorem Device.setChosen_ports (p : PortId) (c : ChosenFrame) (d : Device) : (d.setChosen p c).ports = d.ports := rfl
@[simp] theorem Device.setChosen_enableB (p : PortId) (c : ChosenFrame) (d : Device) : (d.setChosen p c).enableB = d.enableB := rfl
@[simp] theorem Device.setChosen_origin (p : PortId) (c : ChosenFrame) (d : Device) : (d.setChosen p c).origin = d.origin := rfl
@[simp] theorem Device.setChosen_egressCtl (p : PortId) (c : ChosenFrame) (d : Device) : (d.setChosen p c).egressCtl = d.egressCtl := rfl
@[simp] theorem Device.setChosen_table (p : PortId) (c : ChosenFrame) (d : Device) : (d.setChosen p c).table = d.table := rfl
@[simp] theorem Device.setChosen_capture (p : PortId) (c : ChosenFrame) (d : Device) : (d.setChosen p c).capture = d.capture := rfl
@[simp] theorem Device.setChosen_launch (p : PortId) (c : ChosenFrame) (d : Device) : (d.setChosen p c).launch = d.launch := rfl
@[simp] theorem Device.setChosen_agent (p : PortId) (c : ChosenFrame) (d : Device) : (d.setChosen p c).agent = d.agent := rfl
@[simp] theorem Device.setChosen_stats (p : PortId) (c : ChosenFrame) (d : Device) : (d.setChosen p c).stats = d.stats := rfl
@[simp] theorem Device.setChosen_lap (p : PortId) (c : ChosenFrame) (d : Device) : (d.setChosen p c).lap = d.lap := rfl
@[simp] theorem Device.setChosen_choices (p : PortId) (c : ChosenFrame) (d : Device) : (d.setChosen p c).choices = d.choices := rfl

@[simp] theorem Device.setNext_pins (p : PortId) (k : Parity) (d : Device) : (d.setNext p k).pins = d.pins := rfl
@[simp] theorem Device.setNext_ports (p : PortId) (k : Parity) (d : Device) : (d.setNext p k).ports = d.ports := rfl
@[simp] theorem Device.setNext_enableB (p : PortId) (k : Parity) (d : Device) : (d.setNext p k).enableB = d.enableB := rfl
@[simp] theorem Device.setNext_egress (p : PortId) (k : Parity) (d : Device) : (d.setNext p k).egress = d.egress := rfl
@[simp] theorem Device.setNext_origin (p : PortId) (k : Parity) (d : Device) : (d.setNext p k).origin = d.origin := rfl
@[simp] theorem Device.setNext_egressCtl (p : PortId) (k : Parity) (d : Device) : (d.setNext p k).egressCtl = d.egressCtl := rfl
@[simp] theorem Device.setNext_table (p : PortId) (k : Parity) (d : Device) : (d.setNext p k).table = d.table := rfl
@[simp] theorem Device.setNext_capture (p : PortId) (k : Parity) (d : Device) : (d.setNext p k).capture = d.capture := rfl
@[simp] theorem Device.setNext_agent (p : PortId) (k : Parity) (d : Device) : (d.setNext p k).agent = d.agent := rfl
@[simp] theorem Device.setNext_stats (p : PortId) (k : Parity) (d : Device) : (d.setNext p k).stats = d.stats := rfl
@[simp] theorem Device.setNext_lap (p : PortId) (k : Parity) (d : Device) : (d.setNext p k).lap = d.lap := rfl
@[simp] theorem Device.setNext_choices (p : PortId) (k : Parity) (d : Device) : (d.setNext p k).choices = d.choices := rfl

@[simp] theorem Device.setTxSeq_pins (p : PortId) (v : Bool) (d : Device) : (d.setTxSeq p v).pins = d.pins := rfl
@[simp] theorem Device.setTxSeq_ports (p : PortId) (v : Bool) (d : Device) : (d.setTxSeq p v).ports = d.ports := rfl
@[simp] theorem Device.setTxSeq_enableB (p : PortId) (v : Bool) (d : Device) : (d.setTxSeq p v).enableB = d.enableB := rfl
@[simp] theorem Device.setTxSeq_egress (p : PortId) (v : Bool) (d : Device) : (d.setTxSeq p v).egress = d.egress := rfl
@[simp] theorem Device.setTxSeq_origin (p : PortId) (v : Bool) (d : Device) : (d.setTxSeq p v).origin = d.origin := rfl
@[simp] theorem Device.setTxSeq_egressCtl (p : PortId) (v : Bool) (d : Device) : (d.setTxSeq p v).egressCtl = d.egressCtl := rfl
@[simp] theorem Device.setTxSeq_table (p : PortId) (v : Bool) (d : Device) : (d.setTxSeq p v).table = d.table := rfl
@[simp] theorem Device.setTxSeq_capture (p : PortId) (v : Bool) (d : Device) : (d.setTxSeq p v).capture = d.capture := rfl
@[simp] theorem Device.setTxSeq_agent (p : PortId) (v : Bool) (d : Device) : (d.setTxSeq p v).agent = d.agent := rfl
@[simp] theorem Device.setTxSeq_stats (p : PortId) (v : Bool) (d : Device) : (d.setTxSeq p v).stats = d.stats := rfl
@[simp] theorem Device.setTxSeq_lap (p : PortId) (v : Bool) (d : Device) : (d.setTxSeq p v).lap = d.lap := rfl
@[simp] theorem Device.setTxSeq_choices (p : PortId) (v : Bool) (d : Device) : (d.setTxSeq p v).choices = d.choices := rfl

@[simp] theorem Device.setLaunchDone_pins (d : Device) : d.setLaunchDone.pins = d.pins := rfl
@[simp] theorem Device.setLaunchDone_ports (d : Device) : d.setLaunchDone.ports = d.ports := rfl
@[simp] theorem Device.setLaunchDone_enableB (d : Device) : d.setLaunchDone.enableB = d.enableB := rfl
@[simp] theorem Device.setLaunchDone_egress (d : Device) : d.setLaunchDone.egress = d.egress := rfl
@[simp] theorem Device.setLaunchDone_origin (d : Device) : d.setLaunchDone.origin = d.origin := rfl
@[simp] theorem Device.setLaunchDone_egressCtl (d : Device) : d.setLaunchDone.egressCtl = d.egressCtl := rfl
@[simp] theorem Device.setLaunchDone_table (d : Device) : d.setLaunchDone.table = d.table := rfl
@[simp] theorem Device.setLaunchDone_capture (d : Device) : d.setLaunchDone.capture = d.capture := rfl
@[simp] theorem Device.setLaunchDone_launch (d : Device) : d.setLaunchDone.launch = d.launch := rfl
@[simp] theorem Device.setLaunchDone_agent (d : Device) : d.setLaunchDone.agent = d.agent := rfl
@[simp] theorem Device.setLaunchDone_stats (d : Device) : d.setLaunchDone.stats = d.stats := rfl
@[simp] theorem Device.setLaunchDone_choices (d : Device) : d.setLaunchDone.choices = d.choices := rfl

@[simp] theorem Device.setStarvation_pins (d : Device) : d.setStarvation.pins = d.pins := rfl
@[simp] theorem Device.setStarvation_ports (d : Device) : d.setStarvation.ports = d.ports := rfl
@[simp] theorem Device.setStarvation_enableB (d : Device) : d.setStarvation.enableB = d.enableB := rfl
@[simp] theorem Device.setStarvation_egress (d : Device) : d.setStarvation.egress = d.egress := rfl
@[simp] theorem Device.setStarvation_origin (d : Device) : d.setStarvation.origin = d.origin := rfl
@[simp] theorem Device.setStarvation_egressCtl (d : Device) : d.setStarvation.egressCtl = d.egressCtl := rfl
@[simp] theorem Device.setStarvation_table (d : Device) : d.setStarvation.table = d.table := rfl
@[simp] theorem Device.setStarvation_capture (d : Device) : d.setStarvation.capture = d.capture := rfl
@[simp] theorem Device.setStarvation_launch (d : Device) : d.setStarvation.launch = d.launch := rfl
@[simp] theorem Device.setStarvation_agent (d : Device) : d.setStarvation.agent = d.agent := rfl
@[simp] theorem Device.setStarvation_stats (d : Device) : d.setStarvation.stats = d.stats := rfl
@[simp] theorem Device.setStarvation_choices (d : Device) : d.setStarvation.choices = d.choices := rfl

@[simp] theorem Device.setAccessFault_pins (d : Device) : d.setAccessFault.pins = d.pins := rfl
@[simp] theorem Device.setAccessFault_ports (d : Device) : d.setAccessFault.ports = d.ports := rfl
@[simp] theorem Device.setAccessFault_enableB (d : Device) : d.setAccessFault.enableB = d.enableB := rfl
@[simp] theorem Device.setAccessFault_egress (d : Device) : d.setAccessFault.egress = d.egress := rfl
@[simp] theorem Device.setAccessFault_origin (d : Device) : d.setAccessFault.origin = d.origin := rfl
@[simp] theorem Device.setAccessFault_egressCtl (d : Device) : d.setAccessFault.egressCtl = d.egressCtl := rfl
@[simp] theorem Device.setAccessFault_table (d : Device) : d.setAccessFault.table = d.table := rfl
@[simp] theorem Device.setAccessFault_capture (d : Device) : d.setAccessFault.capture = d.capture := rfl
@[simp] theorem Device.setAccessFault_launch (d : Device) : d.setAccessFault.launch = d.launch := rfl
@[simp] theorem Device.setAccessFault_agent (d : Device) : d.setAccessFault.agent = d.agent := rfl
@[simp] theorem Device.setAccessFault_stats (d : Device) : d.setAccessFault.stats = d.stats := rfl
@[simp] theorem Device.setAccessFault_choices (d : Device) : d.setAccessFault.choices = d.choices := rfl

@[simp] theorem Device.setNodeChanged_pins (d : Device) : d.setNodeChanged.pins = d.pins := rfl
@[simp] theorem Device.setNodeChanged_ports (d : Device) : d.setNodeChanged.ports = d.ports := rfl
@[simp] theorem Device.setNodeChanged_enableB (d : Device) : d.setNodeChanged.enableB = d.enableB := rfl
@[simp] theorem Device.setNodeChanged_egress (d : Device) : d.setNodeChanged.egress = d.egress := rfl
@[simp] theorem Device.setNodeChanged_origin (d : Device) : d.setNodeChanged.origin = d.origin := rfl
@[simp] theorem Device.setNodeChanged_egressCtl (d : Device) : d.setNodeChanged.egressCtl = d.egressCtl := rfl
@[simp] theorem Device.setNodeChanged_table (d : Device) : d.setNodeChanged.table = d.table := rfl
@[simp] theorem Device.setNodeChanged_capture (d : Device) : d.setNodeChanged.capture = d.capture := rfl
@[simp] theorem Device.setNodeChanged_launch (d : Device) : d.setNodeChanged.launch = d.launch := rfl
@[simp] theorem Device.setNodeChanged_agent (d : Device) : d.setNodeChanged.agent = d.agent := rfl
@[simp] theorem Device.setNodeChanged_stats (d : Device) : d.setNodeChanged.stats = d.stats := rfl
@[simp] theorem Device.setNodeChanged_choices (d : Device) : d.setNodeChanged.choices = d.choices := rfl

/-! ## What a block reads after an update of it -/

theorem Device.port_onPort (p q : PortId) (f : Port → Port) (d : Device) :
    (d.onPort p f).port q = if q = p then f (d.port p) else d.port q := by cases p <;> cases q <;> rfl

@[simp] theorem Device.port_onPort_self (p : PortId) (f : Port → Port) (d : Device) :
    (d.onPort p f).port p = f (d.port p) := by cases p <;> rfl

theorem Device.arbiter_onArbiter (p q : PortId) (f : Egress → Egress) (d : Device) :
    (d.onArbiter p f).arbiter q = if q = p then f (d.arbiter p) else d.arbiter q := by
  cases p <;> cases q <;> rfl

@[simp] theorem Device.arbiter_onArbiter_self (p : PortId) (f : Egress → Egress) (d : Device) :
    (d.onArbiter p f).arbiter p = f (d.arbiter p) := by cases p <;> rfl

theorem Device.slot_onSlot (k j : SlotId) (f : Slot → Slot) (d : Device) :
    (d.onSlot k f).slot j = if j = k then f (d.slot k) else d.slot j := by
  rcases k with ⟨_ | _, _ | _⟩ <;> rcases j with ⟨_ | _, _ | _⟩ <;> rfl

theorem Device.channel_onChannel (c e : Fin 8) (f : Channel → Channel) (d : Device) :
    (d.onChannel c f).channel e = if e = c then f (d.channel c) else d.channel e := by
  by_cases h : e = c
  · subst h; simp [Device.onChannel, Device.channel]
  · have h' : c.val ≠ e.val := fun x => h (Fin.ext x.symm)
    simp [Device.onChannel, Device.channel, h, h']

theorem Device.buffer_onBuffer (b e : Fin 32) (f : Buffer → Buffer) (d : Device) :
    (d.onBuffer b f).buffer e = if e = b then f (d.buffer b) else d.buffer e := by
  by_cases h : e = b
  · subst h; simp [Device.onBuffer, Device.buffer]
  · have h' : b.val ≠ e.val := fun x => h (Fin.ext x.symm)
    simp [Device.onBuffer, Device.buffer, h, h']

theorem Device.entry_onEntry (i j : Fin 64) (f : Entry → Entry) (d : Device) :
    (d.onEntry i f).table.entries[j] = if j = i then f d.table.entries[i] else d.table.entries[j] := by
  by_cases h : j = i
  · subst h; simp [Device.onEntry]
  · have h' : i.val ≠ j.val := fun x => h (Fin.ext x.symm)
    simp [Device.onEntry, h, h']

theorem Device.counter_count (c e : CounterId) (d : Device) :
    (d.count c).counter e =
      if e.id = c.id then saturatingSucc (d.counter c) else d.counter e := by
  by_cases h : e.id = c.id
  · simp [Device.count, Device.counter, h]
  · have h' : c.id.val ≠ e.id.val := fun x => h (Fin.ext x.symm)
    simp [Device.count, Device.counter, h, h']

@[simp] theorem Device.port_onArbiter (p q : PortId) (f : Egress → Egress) (d : Device) :
    (d.onArbiter p f).port q = d.port q := rfl

@[simp] theorem Device.port_onSlot (k : SlotId) (f : Slot → Slot) (d : Device) (q : PortId) :
    (d.onSlot k f).port q = d.port q := rfl

@[simp] theorem Device.port_count (c : CounterId) (d : Device) (q : PortId) :
    (d.count c).port q = d.port q := rfl

@[simp] theorem Device.arbiter_onPort (p q : PortId) (f : Port → Port) (d : Device) :
    (d.onPort p f).arbiter q = d.arbiter q := rfl

@[simp] theorem Device.arbiter_onSlot (k : SlotId) (f : Slot → Slot) (d : Device) (q : PortId) :
    (d.onSlot k f).arbiter q = d.arbiter q := rfl

@[simp] theorem Device.arbiter_count (c : CounterId) (d : Device) (q : PortId) :
    (d.count c).arbiter q = d.arbiter q := rfl

@[simp] theorem Device.slot_onPort (p : PortId) (f : Port → Port) (d : Device) (k : SlotId) :
    (d.onPort p f).slot k = d.slot k := rfl

@[simp] theorem Device.slot_onArbiter (p : PortId) (f : Egress → Egress) (d : Device) (k : SlotId) :
    (d.onArbiter p f).slot k = d.slot k := rfl

@[simp] theorem Device.slot_count (c : CounterId) (d : Device) (k : SlotId) :
    (d.count c).slot k = d.slot k := rfl

end Machine
end Sys2Proof
end

