-- ==== Sys2Proof/Laws/Ops.lean ====
section
/-! SUPPORT. What each shared operation can do, said once: outcomes, free choices, the credit account of a
port, counters and reports, and which blocks an arbitration, a slot completion or a link drop leaves
alone. -/

namespace Sys2Proof.Machine

/-! ## Outcomes -/

/-- A meaning built with `onDevice` answers a next state whose queue is the old one. -/
theorem onDevice_eq_next {f : Device → Device} {s t : State} :
    onDevice f s = .next t ↔ t = { s with dev := f s.dev } := by
  unfold onDevice
  constructor
  · intro h; injection h with h; exact h.symm
  · intro h; rw [h]

theorem unlessHeld_held {f : Device → Device} {d : Device} (h : d.pins.resetLow = true) :
    unlessHeld f d = d := by simp [unlessHeld, h]

theorem unlessHeld_free {f : Device → Device} {d : Device} (h : d.pins.resetLow = false) :
    unlessHeld f d = f d := by simp [unlessHeld, h]

/-- A property kept by `f` is kept whether or not RESET holds the part. -/
theorem unlessHeld_induct {P : Device → Prop} {f : Device → Device} {d : Device} (h : P d)
    (hf : P (f d)) : P (unlessHeld f d) := by
  unfold unlessHeld; split
  · exact h
  · exact hf

/-- Unordered parts end as one of the two orders gives. -/
theorem eitherOrder_cases (f g : Device → Device) (d : Device) :
    eitherOrder f g d = g (f { d with choices := d.choices + 1 })
      ∨ eitherOrder f g d = f (g { d with choices := d.choices + 1 }) := by
  unfold eitherOrder; simp only; split
  · exact .inl rfl
  · exact .inr rfl

/-- A property that does not look at `choices` and that both parts keep is kept by either order. -/
theorem eitherOrder_induct {P : Device → Prop} {f g : Device → Device} {d : Device}
    (h : P { d with choices := d.choices + 1 }) (hf : ∀ e, P e → P (f e)) (hg : ∀ e, P e → P (g e)) :
    P (eitherOrder f g d) := by
  rcases eitherOrder_cases f g d with e | e <;> rw [e]
  · exact hg _ (hf _ h)
  · exact hf _ (hg _ h)

/-! ## The credit account of a port (R23) -/

/-- The three counts added together. -/
def Port.total (P : Port) : Nat := P.occupied + P.outstanding + P.unannounced

theorem blocksOf_filter (p : Resident → Bool) (rs : List Resident) :
    blocksOf (rs.filter p) + blocksOf (rs.filter fun r => !p r) = blocksOf rs := by
  induction rs with
  | nil => rfl
  | cons r rs ih => cases hp : p r <;> simp_all [blocksOf] <;> omega

theorem Port.release_total (P : Port) : P.release.total = P.total := by
  have := blocksOf_filter Resident.inUse P.residents
  simp only [Port.total, Port.occupied, Port.charged, Port.release] at *
  omega

theorem Port.mapResidents_total {f : Resident → Resident} (h : ∀ r, (f r).blocks = r.blocks)
    (P : Port) : (P.mapResidents f).total = P.total := by
  have : ∀ rs : List Resident, blocksOf (rs.map f) = blocksOf rs := fun rs => by
    induction rs with
    | nil => rfl
    | cons r rs ih => simp_all [blocksOf]
  simp [Port.total, Port.occupied, Port.charged, Port.mapResidents, this]

theorem Port.endForward_total (k : Nat) (P : Port) : (P.endForward k).total = P.total := by
  unfold Port.endForward
  rw [Port.release_total, Port.mapResidents_total]
  intro r; unfold endForwardOf; split <;> rfl

theorem Port.endCapture_total (k : Nat) (P : Port) : (P.endCapture k).total = P.total := by
  unfold Port.endCapture
  rw [Port.release_total, Port.mapResidents_total]
  intro r; unfold endCaptureOf; split <;> rfl

theorem Port.endCaptures_total (P : Port) : P.endCaptures.total = P.total := by
  unfold Port.endCaptures
  rw [Port.release_total, Port.mapResidents_total]
  intro r; rfl

theorem Port.giveBack_total (n : Nat) (P : Port) : (P.giveBack n).total = P.total := by
  simp only [Port.total, Port.giveBack, Port.occupied, Port.charged]
  omega

theorem Port.dropReception_total (P : Port) : P.dropReception.total = P.total := by
  simp only [Port.total, Port.dropReception, Port.occupied, Port.charged]
  omega

theorem Port.closeAccount_total (P : Port) : P.closeAccount.total = P.total := by
  simp only [Port.total, Port.closeAccount, Port.dropReception, Port.occupied, Port.charged]
  omega

theorem Port.announce_total (P : Port) : P.announce.total = P.total := by
  simp only [Port.total, Port.announce, Port.occupied, Port.charged]
  omega

/-! ## Counters, reports and alerts -/

/-- A report reaches the statistics and the origin list alone. -/
theorem Device.report_frame (r : FaultReport) (d : Device) :
    d.report r = { d with stats := (d.report r).stats, origin := (d.report r).origin } := by
  unfold Device.report Device.raiseAlert
  dsimp only
  repeat' (first | rfl | split)

@[simp] theorem Device.report_ports (r : FaultReport) (d : Device) : (d.report r).ports = d.ports := by
  rw [Device.report_frame]

@[simp] theorem Device.report_egress (r : FaultReport) (d : Device) :
    (d.report r).egress = d.egress := by rw [Device.report_frame]

@[simp] theorem Device.report_capture (r : FaultReport) (d : Device) :
    (d.report r).capture = d.capture := by rw [Device.report_frame]

@[simp] theorem Device.report_launch (r : FaultReport) (d : Device) :
    (d.report r).launch = d.launch := by rw [Device.report_frame]

@[simp] theorem Device.report_agent (r : FaultReport) (d : Device) :
    (d.report r).agent = d.agent := by rw [Device.report_frame]

@[simp] theorem Device.report_table (r : FaultReport) (d : Device) :
    (d.report r).table = d.table := by rw [Device.report_frame]

@[simp] theorem Device.report_lap (r : FaultReport) (d : Device) : (d.report r).lap = d.lap := by
  rw [Device.report_frame]

@[simp] theorem Device.report_pins (r : FaultReport) (d : Device) : (d.report r).pins = d.pins := by
  rw [Device.report_frame]

@[simp] theorem Device.report_enableB (r : FaultReport) (d : Device) :
    (d.report r).enableB = d.enableB := by rw [Device.report_frame]

@[simp] theorem Device.report_egressCtl (r : FaultReport) (d : Device) :
    (d.report r).egressCtl = d.egressCtl := by rw [Device.report_frame]

/-- A report counts nothing. -/
@[simp] theorem Device.report_counters (r : FaultReport) (d : Device) :
    (d.report r).stats.counters = d.stats.counters := by
  unfold Device.report Device.raiseAlert Device.setAlertPending Device.placeOrigin
  dsimp only
  repeat' (first | rfl | split)

/-! ## The arbiters' choice -/

/-- A choice reaches the arbiters, the origin list, the slots and the pending flag alone. -/
theorem choose_frame (p : PortId) (d : Device) :
    choose p d = { d with egress := (choose p d).egress, origin := (choose p d).origin
                          launch := (choose p d).launch, stats := (choose p d).stats } := by
  have hfl : ∀ (p : PortId) (d : Device), chooseForwardOrLaunch p d =
      { d with egress := (chooseForwardOrLaunch p d).egress
               launch := (chooseForwardOrLaunch p d).launch } := by
    intro p d
    unfold chooseForwardOrLaunch chooseForward chooseLaunch
    dsimp only
    repeat' (first | rfl | split)
  have hor : ∀ (l : List OriginEntry) (d : Device), chooseOrigin l d =
      { d with egress := (chooseOrigin l d).egress, origin := (chooseOrigin l d).origin
               launch := (chooseOrigin l d).launch, stats := (chooseOrigin l d).stats } := by
    intro l
    induction l with
    | nil => intro d; unfold chooseOrigin; rw [hfl]
    | cons e rest ih =>
      intro d
      unfold chooseOrigin
      split
      · rw [ih]; rfl
      · rfl
      · rfl
      · rfl
  unfold choose
  split
  · cases p
    · exact hor _ _
    · simp only; rw [hfl]
  · rfl

@[simp] theorem choose_ports (p : PortId) (d : Device) : (choose p d).ports = d.ports := by
  rw [choose_frame]

@[simp] theorem choose_capture (p : PortId) (d : Device) : (choose p d).capture = d.capture := by
  rw [choose_frame]

@[simp] theorem choose_table (p : PortId) (d : Device) : (choose p d).table = d.table := by
  rw [choose_frame]

@[simp] theorem choose_agent (p : PortId) (d : Device) : (choose p d).agent = d.agent := by
  rw [choose_frame]

@[simp] theorem choose_lap (p : PortId) (d : Device) : (choose p d).lap = d.lap := by
  rw [choose_frame]

@[simp] theorem choose_pins (p : PortId) (d : Device) : (choose p d).pins = d.pins := by
  rw [choose_frame]

@[simp] theorem choose_enableB (p : PortId) (d : Device) : (choose p d).enableB = d.enableB := by
  rw [choose_frame]

@[simp] theorem choose_egressCtl (p : PortId) (d : Device) :
    (choose p d).egressCtl = d.egressCtl := by rw [choose_frame]

@[simp] theorem arbitrate_ports (d : Device) : (arbitrate d).ports = d.ports := by simp [arbitrate]

@[simp] theorem arbitrate_capture (d : Device) : (arbitrate d).capture = d.capture := by
  simp [arbitrate]

@[simp] theorem arbitrate_table (d : Device) : (arbitrate d).table = d.table := by simp [arbitrate]

@[simp] theorem arbitrate_agent (d : Device) : (arbitrate d).agent = d.agent := by simp [arbitrate]

@[simp] theorem arbitrate_lap (d : Device) : (arbitrate d).lap = d.lap := by simp [arbitrate]

@[simp] theorem arbitrate_pins (d : Device) : (arbitrate d).pins = d.pins := by simp [arbitrate]

@[simp] theorem arbitrate_enableB (d : Device) : (arbitrate d).enableB = d.enableB := by
  simp [arbitrate]

@[simp] theorem arbitrate_egressCtl (d : Device) : (arbitrate d).egressCtl = d.egressCtl := by
  simp [arbitrate]

/-! ## Slots -/

/-- A dealt slot changes the launch unit, its counters and LAUNCH_DONE alone. -/
theorem dealNext_frame (p : PortId) (d : Device) :
    dealNext p d = { d with launch := (dealNext p d).launch, stats := (dealNext p d).stats
                            lap := (dealNext p d).lap } := by
  unfold dealNext completeSlot offerSlot Device.setLaunchDone Device.setTxSeq
  simp only
  repeat' (first | rfl | split)

@[simp] theorem dealNext_ports (p : PortId) (d : Device) : (dealNext p d).ports = d.ports := by
  rw [dealNext_frame]

@[simp] theorem dealNext_egress (p : PortId) (d : Device) : (dealNext p d).egress = d.egress := by
  rw [dealNext_frame]

@[simp] theorem dealNext_origin (p : PortId) (d : Device) : (dealNext p d).origin = d.origin := by
  rw [dealNext_frame]

@[simp] theorem dealNext_capture (p : PortId) (d : Device) : (dealNext p d).capture = d.capture := by
  rw [dealNext_frame]

@[simp] theorem dealNext_table (p : PortId) (d : Device) : (dealNext p d).table = d.table := by
  rw [dealNext_frame]

@[simp] theorem dealNext_agent (p : PortId) (d : Device) : (dealNext p d).agent = d.agent := by
  rw [dealNext_frame]

@[simp] theorem dealSlots_ports (p : PortId) (d : Device) : (dealSlots p d).ports = d.ports := by
  simp [dealSlots]

@[simp] theorem dealSlots_egress (p : PortId) (d : Device) : (dealSlots p d).egress = d.egress := by
  simp [dealSlots]

@[simp] theorem dealSlots_origin (p : PortId) (d : Device) : (dealSlots p d).origin = d.origin := by
  simp [dealSlots]

@[simp] theorem dealSlots_capture (p : PortId) (d : Device) :
    (dealSlots p d).capture = d.capture := by simp [dealSlots]

@[simp] theorem dealSlots_table (p : PortId) (d : Device) : (dealSlots p d).table = d.table := by
  simp [dealSlots]

@[simp] theorem dealSlots_agent (p : PortId) (d : Device) : (dealSlots p d).agent = d.agent := by
  simp [dealSlots]

/-! ## Transactions and batches -/

/-- A word event of a transaction either is not due, or runs `f` and moves the context on. -/
theorem lapWord_cases (c : LapCommand) (a : Half) (f : Device → Device) (d : Device) :
    lapWord c a f d = d ∨ lapWord c a f d = f d ∨ lapWord c a f d = afterWord c a (f d) := by
  unfold lapWord
  split
  · exact .inl rfl
  · split
    · split
      · exact .inl rfl
      · exact .inr (.inl rfl)
    · exact .inr (.inr rfl)
    · split
      · exact .inr (.inr rfl)
      · exact .inl rfl
    · exact .inl rfl

/-- With no transaction open a word command is a transaction of its own (log 2). -/
theorem lapWord_alone {c : LapCommand} {a : Half} {f : Device → Device} {d : Device}
    (h : d.lapHeld = false) (hc : d.lap.context = .idle) (hp : d.pins.lcsLow = false) :
    lapWord c a f d = f d := by simp [lapWord, h, hc, hp]

/-- No word is taken in a transaction that is ignored, or with LCS low and none open (R171; log 2). -/
theorem lapWord_shut {c : LapCommand} {a : Half} {f : Device → Device} {d : Device}
    (h : d.lap.context = .ignored ∨ d.lap.context = .idle ∧ d.pins.lcsLow = true) :
    lapWord c a f d = d := by
  unfold lapWord
  split
  · rfl
  · rcases h with h | ⟨h, hp⟩ <;> simp [h]
    simp [hp]

/-- A word event that is due does its work, sets LDO and moves the transaction on. -/
theorem lapWrite_due {a : Half} {f : Device → Device} {d : Device} (h : d.WordDue .write a)
    (hc : (f d).lap.context = d.lap.context) : lapWrite a f d = d.wordDone (f d) .write a 0 := by
  obtain ⟨hh, ⟨hi, hp⟩ | ho | ⟨next, pos, hw, hn⟩⟩ := h
  · simp [lapWrite, lapWord, hh, hi, hp, Device.wordDone, LapContext.next, Device.onLap, hc]
  · simp [lapWrite, lapWord, hh, ho, Device.wordDone, LapContext.next, Device.onLap, afterWord]
  · simp [lapWrite, lapWord, hh, hw, hn, Device.wordDone, LapContext.next, Device.onLap, afterWord]

theorem lapReadAt_due {a : Half} {d : Device} (h : d.WordDue .read a)
    (hc : (lapRead (lapWordAt a) d).2.lap.context = d.lap.context) :
    lapReadAt a d = d.wordDone (lapRead (lapWordAt a) d).2 .read a (lapRead (lapWordAt a) d).1 := by
  obtain ⟨hh, ⟨hi, hp⟩ | ho | ⟨next, pos, hw, hn⟩⟩ := h
  · simp [lapReadAt, lapWord, hh, hi, hp, Device.wordDone, LapContext.next, Device.onLap, hc]
  · simp [lapReadAt, lapWord, hh, ho, Device.wordDone, LapContext.next, Device.onLap, afterWord]
  · simp [lapReadAt, lapWord, hh, hw, hn, Device.wordDone, LapContext.next, Device.onLap, afterWord]

/-- An operation acts only as the next of the running batch. -/
theorem runOperation_due {o : Op} {f : Device → OpOutcome} {d : Device} {b : Batch}
    (hb : d.agent.batch = some b) (h : b.due o = true) (hr : d.agent.resetDue = false) :
    runOperation o f d =
      (f d).dev.onAgent fun a => { a with batch := some (b.record o (f d)) } := by
  simp [runOperation, hb, h, hr]

theorem runOperation_notDue {o : Op} {f : Device → OpOutcome} {d : Device}
    (h : ∀ b, d.agent.batch = some b → b.due o = false) : runOperation o f d = d := by
  unfold runOperation
  split
  · rfl
  · rename_i b hb; simp [h b hb]

/-! ## A station reset that is due comes before the agent's other events (R145; log 20) -/

theorem runOperation_resetDue {o : Op} {f : Device → OpOutcome} {d : Device}
    (h : d.agent.resetDue = true) : runOperation o f d = d := by
  unfold runOperation
  split
  · rfl
  · simp [h]

theorem endBatch_resetDue {d : Device} (h : d.agent.resetDue = true) : endBatch d = d := by
  unfold endBatch
  split
  · simp [h]
  · rfl

theorem startRequest_resetDue {d : Device} (h : d.agent.resetDue = true) : startRequest d = d := by
  simp [startRequest, h]

theorem sendEof_reply_resetDue {p : PortId} {d : Device} {f : Frame} {c : Chosen}
    (h : d.agent.resetDue = true) (hc : (d.arbiter p).chosen = some c)
    (hf : c.frame = .origin .reply f) : sendEof p d = d := by
  unfold sendEof
  split
  · rename_i c' _ hc'
    obtain rfl : c = c' := by simpa [hc] using hc'
    simp [ChosenFrame.waitsForReset, hf, h]
  · rfl

/-- The EOF of every other chosen frame, and of a REPLY with no station reset due. -/
theorem sendEof_due {p : PortId} {d : Device} {c : Chosen} {n : Nat}
    (ht : (d.port p).tx = .sending [] n) (hc : (d.arbiter p).chosen = some c)
    (hw : c.frame.waitsForReset d.agent = false) :
    sendEof p d = arbitrate (finishFrame p c.frame
      ((d.onPort p fun P => { P with tx := .between, lastSent := [.eof] }).onArbiter p
        fun a => { a with chosen := none })) := by
  simp [sendEof, ht, hc, hw]

/-! ## An exhausted take (R149, R151) -/

/-- The report comes first, and at HOPS 0 the two reports are taken in one of the two orders. -/
theorem passExhausted_cases (key : Nat) (h : Header) (mode : Byte) (d : Device) :
    let drawn := { d with choices := d.choices + 1 }
    (h.hops ≠ 0 → passExhausted key h mode d = passEnum key h mode 63 (reportExhausted h d))
      ∧ (h.hops = 0 →
        passExhausted key h mode d =
            arbitrate (passEnum key h mode 63 (arbitrate (reportExhausted h drawn)))
          ∨ passExhausted key h mode d =
            arbitrate (reportExhausted h (arbitrate (passEnum key h mode 63 drawn)))) := by
  refine ⟨fun hh => by unfold passExhausted; rw [if_neg hh], fun hh => ?_⟩
  simp only [passExhausted, hh, if_true]
  exact eitherOrder_cases _ _ _

end Sys2Proof.Machine
end

