-- ==== Sys2Proof/Laws/Effects.lean ====
section
/-! SUPPORT. What the larger shared operations can change, said once: counting, the arbiters' choice, an
error event, the completion of a slot, the egress side of a link drop, the end of a frame in
reception. -/

namespace Sys2Proof.Machine

/-! ## Counting -/

theorem PortCounter.place_inj : ∀ {a b : PortCounter}, a.place = b.place → a = b := by
  intro a b; cases a <;> cases b <;> decide

theorem ChannelCounter.place_inj : ∀ {a b : ChannelCounter}, a.place = b.place → a = b := by
  intro a b; cases a <;> cases b <;> decide

/-- Two counters never share an id (Table 13.9). -/
theorem CounterId.id_inj {a b : CounterId} (h : a.id = b.id) : a = b := by
  have hv := congrArg Fin.val h
  cases a <;> cases b
  case port.port p c q e =>
    cases p <;> cases q <;> simp only [CounterId.id] at hv
    · rw [PortCounter.place_inj (a := c) (b := e) (by omega)]
    · omega
    · omega
    · rw [PortCounter.place_inj (a := c) (b := e) (by omega)]
  case channel.channel p c q e =>
    simp only [CounterId.id] at hv
    obtain rfl : p = q := by omega
    rw [ChannelCounter.place_inj (a := c) (b := e) (by omega)]
  case port.channel p c q e => cases p <;> simp only [CounterId.id] at hv <;> omega
  case channel.port p c q e => cases q <;> simp only [CounterId.id] at hv <;> omega
  all_goals first
    | rfl
    | (rename_i p c; cases p <;> simp only [CounterId.id] at hv <;> omega)
    | (simp only [CounterId.id] at hv; omega)

/-- The counter `c` has risen by one and no other has changed. -/
def Device.CountedOnly (d e : Device) (c : CounterId) : Prop :=
  ∀ x : CounterId, e.counter x = if x = c then saturatingSucc (d.counter x) else d.counter x

/-- Counting raises one counter and leaves the others. -/
theorem Device.countedOnly_count (c : CounterId) (d : Device) : d.CountedOnly (d.count c) c := by
  intro x
  rw [Device.counter_count]
  by_cases h : x = c
  · subst h; simp
  · rw [if_neg h, if_neg (fun h' => h (CounterId.id_inj h'))]

/-- One more, up to 4294967295 (R157). -/
theorem saturatingSucc_toNat (w : Word) : (saturatingSucc w).toNat = min 4294967295 (w.toNat + 1) := by
  unfold saturatingSucc
  have := w.isLt
  split
  · rename_i h; subst h; rfl
  · rename_i h
    have hne : w.toNat ≠ 4294967295 := fun e => h (BitVec.eq_of_toNat_eq e)
    rw [BitVec.toNat_add]
    simp; omega

/-! ## Updates of one port -/

theorem Device.onPort_onPort (p : PortId) (f g : Port → Port) (d : Device) :
    (d.onPort p f).onPort p g = d.onPort p (fun P => g (f P)) := by
  cases p <;> simp [Device.onPort, PerPort.set, PerPort.get]

/-- An update of a port is known by what it makes of that port. -/
theorem Device.onPort_congr {p : PortId} {f g : Port → Port} {d : Device}
    (h : f (d.port p) = g (d.port p)) : d.onPort p f = d.onPort p g := by
  unfold Device.onPort; simp only [Device.port] at h; rw [h]

theorem Device.port_onPort_opposite (p : PortId) (f : Port → Port) (d : Device) :
    (d.onPort p f).port p.opposite = d.port p.opposite := by
  rw [Device.port_onPort, if_neg (PortId.opposite_ne p)]

/-! ## The arbiters' choice -/

/-- What a choice leaves of the launch unit and the statistics. -/
structure ChoiceFrame (d e : Device) : Prop where
  mem : e.launch.mem = d.launch.mem
  next : e.launch.next = d.launch.next
  txSeq : e.launch.txSeq = d.launch.txSeq
  record : e.stats.record = d.stats.record
  overflow : e.stats.overflow = d.stats.overflow
  counters : e.stats.counters = d.stats.counters

theorem ChoiceFrame.refl (d : Device) : ChoiceFrame d d := ⟨rfl, rfl, rfl, rfl, rfl, rfl⟩

theorem ChoiceFrame.trans {d e f : Device} (a : ChoiceFrame d e) (b : ChoiceFrame e f) :
    ChoiceFrame d f :=
  ⟨b.mem.trans a.mem, b.next.trans a.next, b.txSeq.trans a.txSeq, b.record.trans a.record,
    b.overflow.trans a.overflow, b.counters.trans a.counters⟩

theorem chooseForwardOrLaunch_choice (p : PortId) (d : Device) :
    ChoiceFrame d (chooseForwardOrLaunch p d) := by
  unfold chooseForwardOrLaunch chooseForward chooseLaunch
  dsimp only
  repeat' split
  all_goals exact ⟨rfl, rfl, rfl, rfl, rfl, rfl⟩

theorem chooseOrigin_choice (l : List OriginEntry) (d : Device) :
    ChoiceFrame d (chooseOrigin l d) := by
  induction l generalizing d with
  | nil =>
    unfold chooseOrigin
    have h : ChoiceFrame d { d with origin := [] } := ⟨rfl, rfl, rfl, rfl, rfl, rfl⟩
    exact h.trans (chooseForwardOrLaunch_choice .a _)
  | cons e rest ih =>
    unfold chooseOrigin
    split
    · have h : ChoiceFrame d (d.setAlertPending false) := ⟨rfl, rfl, rfl, rfl, rfl, rfl⟩
      exact h.trans (ih _)
    all_goals exact ⟨rfl, rfl, rfl, rfl, rfl, rfl⟩

/-- R70: an arbiter of a port that is not ONLINE, or with a chosen frame, makes no choice. -/
theorem choose_blocked {p : PortId} {d : Device}
    (h : (d.port p).online = false ∨ (d.arbiter p).chosen ≠ none) : choose p d = d := by
  unfold choose
  rw [if_neg]
  rintro ⟨h1, h2⟩
  rcases h with h | h
  · rw [h] at h1
    cases h1
  · exact h h2

/-- R71 (2), (3): with no R present the choice is between F and I. -/
theorem choose_noOrigin {p : PortId} {d : Device} (h1 : (d.port p).online = true)
    (h2 : (d.arbiter p).chosen = none) (h : p = .a → d.origin = []) :
    choose p d = chooseForwardOrLaunch p d := by
  unfold choose
  rw [if_pos ⟨h1, h2⟩]
  cases p
  · simp only [h rfl, chooseOrigin]
    rw [← h rfl]
  · rfl

theorem choose_choice (p : PortId) (d : Device) : ChoiceFrame d (choose p d) := by
  unfold choose
  split
  · cases p
    · exact chooseOrigin_choice _ _
    · exact chooseForwardOrLaunch_choice _ _
  · exact .refl d

theorem arbitrate_choice (d : Device) : ChoiceFrame d (arbitrate d) :=
  (choose_choice .a d).trans (choose_choice .b _)

@[simp] theorem arbitrate_counter (d : Device) (c : CounterId) :
    (arbitrate d).counter c = d.counter c := by simp [Device.counter, (arbitrate_choice d).counters]

@[simp] theorem arbitrate_port (d : Device) (p : PortId) : (arbitrate d).port p = d.port p := by
  simp [Device.port]

theorem chooseForwardOrLaunch_arbiter {p q : PortId} (d : Device) (h : q ≠ p) :
    (chooseForwardOrLaunch q d).arbiter p = d.arbiter p := by
  unfold chooseForwardOrLaunch
  dsimp only
  repeat' split
  all_goals first | rfl | (cases p <;> cases q <;> first | rfl | exact absurd rfl h)

theorem chooseOrigin_arbiter (l : List OriginEntry) (d : Device) :
    (chooseOrigin l d).arbiter .b = d.arbiter .b := by
  induction l generalizing d with
  | nil => unfold chooseOrigin; exact chooseForwardOrLaunch_arbiter _ (by simp)
  | cons e rest ih =>
    unfold chooseOrigin
    split
    · rw [ih]; rfl
    all_goals rfl

/-- The arbiter of a port that is not ONLINE chooses nothing. -/
theorem arbitrate_arbiter_down {p : PortId} {d : Device} (h : (d.port p).online = false) :
    (arbitrate d).arbiter p = d.arbiter p := by
  have one : ∀ (q : PortId) (e : Device), (e.port p).online = false →
      (choose q e).arbiter p = e.arbiter p := by
    intro q e he
    unfold choose
    split
    · rename_i hh
      have hqp : q ≠ p := by rintro rfl; simp [hh.1] at he
      cases q <;> cases p <;> first | exact absurd rfl hqp | skip
      · exact chooseOrigin_arbiter _ _
      · exact chooseForwardOrLaunch_arbiter _ (by simp)
    · rfl
  unfold arbitrate
  rw [one .b _ (by simpa [Device.port] using h), one .a d h]

/-! ## An error event -/

@[simp] theorem errorEvent_ports (c : PortCounter) (k : FaultKind) (p : PortId) (h : Option Header)
    (d : Device) : (errorEvent c k p h d).ports = d.ports := by
  simp [errorEvent, Device.portError, Device.countPort]

@[simp] theorem errorEvent_port (c : PortCounter) (k : FaultKind) (p q : PortId) (h : Option Header)
    (d : Device) : (errorEvent c k p h d).port q = d.port q := by simp [Device.port]

theorem errorEvent_counted (c : PortCounter) (k : FaultKind) (p : PortId) (h : Option Header)
    (d : Device) : d.CountedOnly (errorEvent c k p h d) (.port p c) := by
  intro x
  rw [errorEvent, arbitrate_counter, Device.portError, Device.countPort, Device.counter,
    Device.report_counters]
  exact Device.countedOnly_count _ _ x

/-! ## The end of a frame in reception -/

/-- What `closeFrame` makes of its port; the error run is the caller's. -/
theorem closeFrame_closes {p : PortId} {f : RxFrame} {d : Device} (hr : (d.port p).rx = some f)
    (he : (d.port p).errorRun = 0) :
    ∃ Q, closeFrame p f d = d.onPort p (fun _ => Q) ∧ Q.rx = none ∧ (d.port p).FrameClosed f Q := by
  cases hc : f.charge with
  | none =>
    refine ⟨{ (d.port p) with rx := none }.giveBack f.settlement, ?_, rfl, ?_⟩
    · unfold closeFrame
      rw [Device.onPort_congr (g := fun _ => { (d.port p) with rx := none }.giveBack f.settlement)]
      simp [hc]
    · unfold Port.FrameClosed
      simp [hc, Port.giveBack, RxFrame.settlement, he]
  | some n =>
    refine ⟨(d.port p).dropReception, ?_, rfl, ?_⟩
    · unfold closeFrame
      rw [Device.onPort_congr (g := fun _ => (d.port p).dropReception)]
      simp [hc]
    · unfold Port.FrameClosed
      simp [hc, Port.dropReception, Port.charged, hr, RxFrame.charged, he]

/-! ## Completions of a slot -/

theorem Device.slot_of_slots {d e : Device} (h : e.launch.slots = d.launch.slots) (j : SlotId) :
    e.slot j = d.slot j := by simp [Device.slot, h]

/-- R116: a completion is what `SlotCompleted` spells. -/
theorem completeSlot_completes {st : SlotStatus} (p : PortId) (k : Parity) (d : Device)
    (h : st = .sent ∨ st = .linkDown ∨ st = .unnumbered) :
    d.SlotCompleted (completeSlot p k st d) ⟨p, k⟩ st := by
  have hc : completionCounter st = if st = .sent then .launched else .launchFailed := by
    rcases h with rfl | rfl | rfl <;> rfl
  have ht : (completeSlot p k st d).launch.txSeq =
      if st = .sent ∧ (d.slot ⟨p, k⟩).seqMode = .auto then
        d.launch.txSeq.set p (!d.launch.txSeq.get p)
      else d.launch.txSeq := by
    by_cases h1 : st = .sent <;> by_cases h2 : (d.slot ⟨p, k⟩).seqMode = .auto <;>
      simp [completeSlot, h1, h2] <;> rfl
  have hs : (completeSlot p k st d).launch.slots =
      (d.onSlot ⟨p, k⟩ fun s => s.completed st).launch.slots := by
    unfold completeSlot; dsimp only; split <;> rfl
  refine ⟨fun j => ?_, ?_, ?_, ht, ?_, fun c => ?_, ?_⟩
  · rw [Device.slot_of_slots hs, Device.slot_onSlot]
  · unfold completeSlot; dsimp only; split <;> rfl
  · unfold completeSlot; dsimp only; split <;> rfl
  · unfold completeSlot; dsimp only; split <;> rfl
  · rw [← hc]
    have : (completeSlot p k st d).counter c = (d.count (completionCounter st)).counter c := by
      unfold completeSlot; dsimp only; split <;> rfl
    rw [this, Device.countedOnly_count]
  · unfold completeSlot; dsimp only; split <;> rfl

/-- What the failed completions and the offers of one direction leave: everything but slots, NEXT,
LAUNCH_DONE and LAUNCH_FAILED. -/
structure LaunchFrame (d e : Device) : Prop where
  rest : e = { d with launch := e.launch, lap := e.lap
                      stats := { d.stats with counters := e.stats.counters } }
  mem : e.launch.mem = d.launch.mem
  txSeq : e.launch.txSeq = d.launch.txSeq
  counters : ∀ c, c ≠ .launchFailed → e.counter c = d.counter c

theorem LaunchFrame.refl (d : Device) : LaunchFrame d d := ⟨rfl, rfl, rfl, fun _ _ => rfl⟩

theorem LaunchFrame.trans {d e f : Device} (a : LaunchFrame d e) (b : LaunchFrame e f) :
    LaunchFrame d f := by
  refine ⟨?_, b.mem.trans a.mem, b.txSeq.trans a.txSeq,
    fun c h => (b.counters c h).trans (a.counters c h)⟩
  rw [b.rest, a.rest]

theorem completeSlot_frame (p : PortId) (k : Parity) {st : SlotStatus} (d : Device)
    (h : st = .linkDown ∨ st = .unnumbered) : LaunchFrame d (completeSlot p k st d) := by
  have hs : st ≠ .sent := by rcases h with rfl | rfl <;> simp
  obtain ⟨-, mem, -, tx, -, cnt, rest⟩ := completeSlot_completes p k d (.inr h)
  refine ⟨rest, mem, by simpa [hs] using tx, fun c hc => ?_⟩
  rw [cnt, if_neg hs, if_neg hc]

theorem dealNext_launch (p : PortId) (d : Device) : LaunchFrame d (dealNext p d) := by
  unfold dealNext
  dsimp only
  repeat' split
  · exact completeSlot_frame _ _ _ (.inl rfl)
  · exact completeSlot_frame _ _ _ (.inr rfl)
  · exact ⟨rfl, rfl, rfl, fun _ _ => rfl⟩
  · exact .refl d

theorem launchDown_frame (p : PortId) (d : Device) : LaunchFrame d (launchDown p d) := by
  unfold launchDown dealSlots
  dsimp only
  split
  · exact .refl d
  · exact ((completeSlot_frame p _ d (.inl rfl)).trans (dealNext_launch p _)).trans
      (dealNext_launch p _)

/-- R117: the slots of a port that is no longer ONLINE. -/
theorem launchDown_down {p : PortId} {d : Device} (h : (d.port p).online = false) :
    d.SlotsDown (launchDown p d) p := by
  have cases_ : ∀ e : Device, (e.port p).online = false → 
      dealNext p e =
        if (e.slot ⟨p, e.nextParity p⟩).owner = .waiting
            ∧ (e.slot ⟨p, e.nextParity p⟩).offered = none then
        completeSlot p (e.nextParity p) .linkDown e else e := by
    intro e he; unfold dealNext; simp [he]
  unfold launchDown
  dsimp only
  split
  · rename_i ho
    exact ⟨fun _ => ⟨rfl, rfl, rfl⟩, fun h => absurd ho h⟩
  · rename_i ho
    refine ⟨fun h => absurd h ho, fun _ => ?_⟩
    have c1 := completeSlot_completes p (d.nextParity p) d (st := .linkDown) (by simp)
    generalize hm : completeSlot p (d.nextParity p) .linkDown d = m at c1 ⊢
    obtain ⟨s1, mem1, next1, tx1, lap1, cnt1, rest1⟩ := c1
    have hp1 : (m.port p).online = false := by rw [rest1]; exact h
    have hn1 : m.nextParity p = (d.nextParity p).other := by simp [Device.nextParity, next1]
    have ho1 : m.slot ⟨p, (d.nextParity p).other⟩ = d.slot ⟨p, (d.nextParity p).other⟩ := by
      rw [s1, if_neg]; simp [Parity.other_ne]
    unfold dealSlots
    rw [cases_ m hp1, hn1, ho1]
    simp only [reduceCtorEq, if_false, false_and] at tx1 cnt1
    split
    · rename_i hb
      have c2 := completeSlot_completes p (d.nextParity p).other m (st := .linkDown) (by simp)
      generalize hm2 : completeSlot p (d.nextParity p).other .linkDown m = m2 at c2 ⊢
      obtain ⟨s2, mem2, next2, tx2, lap2, cnt2, rest2⟩ := c2
      simp only [reduceCtorEq, if_false, false_and] at tx2 cnt2
      have hp2 : (m2.port p).online = false := by rw [rest2]; exact hp1
      have hn2 : m2.nextParity p = d.nextParity p := by simp [Device.nextParity, next2]
      have hself : m2.slot ⟨p, d.nextParity p⟩ = (d.slot ⟨p, d.nextParity p⟩).completed .linkDown := by
        rw [s2, if_neg (by simp [(Parity.other_ne _).symm]), s1, if_pos rfl]
      rw [cases_ m2 hp2, hn2, hself, if_neg (by simp [Slot.completed])]
      refine ⟨hself, ?_, ?_, mem2.trans mem1, tx2.trans tx1, ?_, ?_, ?_⟩
      · rw [s2, if_pos rfl, ho1]
      · intro j; rw [s2, if_neg (by simp [PortId.opposite_ne]), s1, if_neg (by simp [PortId.opposite_ne])]
      · rw [next2, next1]; cases p <;> simp [PerPort.set]
      · rw [lap2, lap1]
      · rw [cnt2, cnt1]; simp [saturatingSucc_toNat]; omega
    · rename_i hb
      rw [cases_ m hp1, hn1, ho1, if_neg hb]
      refine ⟨?_, ?_, ?_, mem1, tx1, next1, lap1, ?_⟩
      · rw [s1, if_pos rfl]
      · exact ho1
      · intro j; rw [s1, if_neg (by simp [PortId.opposite_ne])]
      · rw [cnt1]; simp [saturatingSucc_toNat]

/-! ## Dropped references -/

/-- R34: the end of one forward use. -/
theorem Port.endForward_ends (k : Nat) (P : Port) : P.ForwardsEnded [k] (P.endForward k) := by
  have h : Resident.lessForwards [k] = endForwardOf k := by
    funext r; simp [Resident.lessForwards, endForwardOf]
  refine ⟨fun e => ?_, fun _ => ?_⟩
  · cases e
  · rw [h]; rfl

theorem Resident.lessForwards_append (ks ls : List Nat) (r : Resident) :
    (r.lessForwards ks).lessForwards ls = r.lessForwards (ks ++ ls) := by
  unfold Resident.lessForwards
  by_cases hk : r.key ∈ ks <;> by_cases hl : r.key ∈ ls <;> simp [hk, hl]

/-- A frame without a use stays without one. -/
theorem Resident.lessForwards_inUse {ks : List Nat} {r : Resident}
    (h : (r.lessForwards ks).inUse = true) : r.inUse = true := by
  unfold Resident.lessForwards at h
  split at h
  · simp_all [Resident.inUse]
  · exact h

/-- References dropped one after the other are references dropped together. -/
theorem Port.ForwardsEnded.trans {ks ls : List Nat} {P Q R : Port} (h : P.ForwardsEnded ks Q)
    (g : Q.ForwardsEnded ls R) : P.ForwardsEnded (ks ++ ls) R := by
  by_cases hk : ks = []
  · subst hk; rw [h.1 rfl] at g; simpa using g
  by_cases hl : ls = []
  · subst hl; rw [g.1 rfl]; simpa using h
  refine ⟨fun e => absurd e (by simp [hk]), fun _ => ?_⟩
  have kept : ∀ rs : List Resident,
      (((rs.map (Resident.lessForwards ks)).filter Resident.inUse).map
          (Resident.lessForwards ls)).filter Resident.inUse
        = (rs.map (Resident.lessForwards (ks ++ ls))).filter Resident.inUse
      ∧ blocksOf ((rs.map (Resident.lessForwards ks)).filter fun r => !r.inUse)
          + blocksOf ((((rs.map (Resident.lessForwards ks)).filter Resident.inUse).map
            (Resident.lessForwards ls)).filter fun r => !r.inUse)
        = blocksOf ((rs.map (Resident.lessForwards (ks ++ ls))).filter fun r => !r.inUse) := by
    intro rs
    induction rs with
    | nil => exact ⟨rfl, rfl⟩
    | cons r rs ih =>
      have hb : ∀ js, (r.lessForwards js).blocks = r.blocks := by
        intro js; unfold Resident.lessForwards; split <;> rfl
      have hu := @Resident.lessForwards_inUse ls (r.lessForwards ks)
      rw [Resident.lessForwards_append] at hu
      cases h1 : (r.lessForwards ks).inUse <;> cases h2 : (r.lessForwards (ks ++ ls)).inUse <;>
        simp_all [Resident.lessForwards_append, blocksOf] <;> omega
  obtain ⟨k1, k2⟩ := kept P.residents
  have hQ := h.2 hk
  rw [g.2 hl, hQ]
  simp only [Port.mk.injEq, true_and, and_true]
  exact ⟨k1, by rw [Nat.add_assoc]; exact congrArg _ k2⟩
/-- R75: the references of `keys` at port `p` are dropped and counted, and nothing else changes. -/
structure RefsDropped (p : PortId) (keys : List Nat) (d e : Device) : Prop where
  port : e.port p = d.port p
  ended : (d.port p.opposite).ForwardsEnded keys (e.port p.opposite)
  dropped : (e.counter (.port p .egressDropped)).toNat =
    min 4294967295 ((d.counter (.port p .egressDropped)).toNat + keys.length)
  counters : ∀ c, c ≠ .port p .egressDropped → e.counter c = d.counter c
  rest : e = { d with
    ports := e.ports, origin := e.origin
    stats := { d.stats with counters := e.stats.counters, alertPending := e.stats.alertPending } }

theorem RefsDropped.nil (p : PortId) (d : Device) : RefsDropped p [] d d :=
  ⟨rfl, ⟨fun _ => rfl, fun h => absurd rfl h⟩,
    by have := (d.counter (.port p .egressDropped)).isLt; simp; omega,
    fun _ _ => rfl, rfl⟩

theorem RefsDropped.append {p : PortId} {ks ls : List Nat} {d e f : Device}
    (a : RefsDropped p ks d e) (b : RefsDropped p ls e f) : RefsDropped p (ks ++ ls) d f := by
  refine ⟨b.port.trans a.port, a.ended.trans b.ended, ?_,
    fun c h => (b.counters c h).trans (a.counters c h), ?_⟩
  · rw [b.dropped, a.dropped, List.length_append]; omega
  · rw [b.rest, a.rest]

theorem dropRef_drops (p : PortId) (d : Device) (ref : ForwardRef) :
    RefsDropped p [ref.key] d (dropRef p d ref) := by
  refine ⟨by cases p <;> rfl, ?_, ?_, fun c h => ?_, rfl⟩
  · unfold dropRef
    rw [Device.port_onPort_self]
    exact Port.endForward_ends _ _
  · show ((d.count (.port p .egressDropped)).counter _).toNat = _
    rw [Device.countedOnly_count, if_pos rfl, saturatingSucc_toNat]; rfl
  · show (d.count (.port p .egressDropped)).counter c = _
    rw [Device.countedOnly_count, if_neg h]

theorem dropRefs_drops (p : PortId) (l : List ForwardRef) (d : Device) :
    RefsDropped p (l.map ForwardRef.key) d (l.foldl (dropRef p) d) := by
  induction l generalizing d with
  | nil => exact .nil p d
  | cons r l ih => exact (dropRef_drops p d r).append (ih _)

theorem dropRefs_keeps (p : PortId) (l : List ForwardRef) (d : Device) :
    (l.foldl (dropRef p) d).origin = d.origin
      ∧ (l.foldl (dropRef p) d).stats.alertPending = d.stats.alertPending := by
  induction l generalizing d with
  | nil => exact ⟨rfl, rfl⟩
  | cons r l ih => exact ih (dropRef p d r)

/-- R75 (1). -/
theorem dropChosen_drops (p : PortId) (d : Device) :
    RefsDropped p (((d.arbiter p).chosen.bind fun c => c.frame.reference).toList.map ForwardRef.key) d
        (dropChosen p d)
      ∧ (dropChosen p d).stats.alertPending =
          (d.stats.alertPending || (d.arbiter p).chosenOrigin = some .alert)
      ∧ ((d.arbiter p).chosenOrigin = none → (dropChosen p d).origin = d.origin)
      ∧ ((d.arbiter p).chosenOrigin ≠ none → (dropChosen p d).origin = d.origin.map unchoose) := by
  unfold Egress.chosenOrigin
  cases hch : (d.arbiter p).chosen with
  | none =>
    have : dropChosen p d = d := by simp [dropChosen, hch]
    rw [this]; exact ⟨.nil p d, by simp, by simp, by simp⟩
  | some c =>
    cases hf : c.frame with
    | forward ref =>
      have : dropChosen p d = dropRef p d ref := by simp [dropChosen, hch, hf]
      rw [this]
      exact ⟨by simpa [hf, ChosenFrame.reference] using dropRef_drops p d ref, by simp [hf]; rfl,
        fun _ => rfl, by simp [hf]⟩
    | launch k =>
      have : dropChosen p d = d := by simp [dropChosen, hch, hf]
      rw [this]
      exact ⟨by simpa [hf, ChosenFrame.reference] using RefsDropped.nil p d, by simp [hf],
        fun _ => rfl, by simp [hf]⟩
    | origin k f =>
      have : dropChosen p d = returnOrigin k d := by simp [dropChosen, hch, hf]
      rw [this]
      have hr : RefsDropped p [] d (returnOrigin k d) := by
        have h0 := RefsDropped.nil p d
        unfold returnOrigin; dsimp only
        split <;> exact ⟨h0.port, h0.ended, h0.dropped, h0.counters, rfl⟩
      refine ⟨by simpa [hf, ChosenFrame.reference] using hr, ?_, by simp [hf], fun _ => ?_⟩
      · cases k <;> simp [hf, returnOrigin, Device.setAlertPending]
      · unfold returnOrigin; dsimp only; split <;> rfl

/-! ## The egress side of a link drop or a disable -/

/-- R75, R76, R117: the egress side of a port that has left ONLINE is emptied. -/
theorem egressDown_empties {p : PortId} {d : Device} (h : (d.port p).online = false) :
    d.EgressEmptied (egressDown p d) p := by
  obtain ⟨c1, alert1, org1, org2⟩ := dropChosen_drops p d
  have hr := c1.append (dropRefs_drops p (d.arbiter p).queue (dropChosen p d))
  obtain ⟨k1, k2⟩ := dropRefs_keeps p (d.arbiter p).queue (dropChosen p d)
  have hkeys : d.referenceKeys p.opposite =
      ((d.arbiter p).chosen.bind fun c => c.frame.reference).toList.map ForwardRef.key
        ++ (d.arbiter p).queue.map ForwardRef.key := by
    simp [Device.referenceKeys, Device.references]
  rw [← hkeys] at hr
  have he : egressDown p d = launchDown p
      (((d.arbiter p).queue.foldl (dropRef p) (dropChosen p d)).onArbiter p
        fun a => { a with queue := [], chosen := none }) := rfl
  rw [he]
  generalize (d.arbiter p).queue.foldl (dropRef p) (dropChosen p d) = m at hr k1 k2 ⊢
  generalize hn : (m.onArbiter p fun a => { a with queue := [], chosen := none }) = n
  let emptied : Egress := { queue := [], share := (d.arbiter p).share, chosen := none }
  have hn' : n = { m with egress := d.egress.set p emptied } := by
    subst hn
    show ({ m with egress := PerPort.set m.egress p _ } : Device) = _
    rw [hr.rest]; rfl
  have hno : (n.port p).online = false := by
    subst hn; show (m.port p).online = false; rw [hr.port]; exact h
  have hl := launchDown_frame p n
  have hs := launchDown_down hno
  generalize launchDown p n = f at hl hs ⊢
  have hd : f = { d with
      ports := m.ports, origin := m.origin, launch := f.launch, lap := f.lap
      egress := d.egress.set p emptied
      stats := { d.stats with
        counters := f.stats.counters, alertPending := m.stats.alertPending } } := by
    rw [hl.rest, hn', hr.rest]
  have hcount : ∀ c, c ≠ .launchFailed → f.counter c = m.counter c := fun c hc => by
    rw [hl.counters c hc, hn']; rfl
  have hlaunch : n.launch = d.launch := by rw [hn', hr.rest]
  have hlap : n.lap = d.lap := by rw [hn', hr.rest]
  have hfail : n.counter .launchFailed = d.counter .launchFailed := by
    rw [hn']; exact hr.counters _ (by simp)
  refine ⟨?_, ?_, ?_, ?_, fun c h1 h2 => by rw [hcount c h2, hr.counters c h1], fun hc => ?_,
    fun hc => ?_, ?_, ?_, ?_⟩
  · rw [hd]; simp [Device.arbiter, emptied]
  · rw [hd]; simp [Device.arbiter, PerPort.get_set, PortId.opposite_ne]
  · rw [hd]; exact hr.ended
  · rw [hcount _ (by simp)]; exact hr.dropped
  · rw [hd]; exact k1.trans (org1 hc)
  · rw [hd]
    show m.origin = _
    rw [k1, org2 hc]
    apply List.map_congr_left
    rintro ⟨b, c⟩ -
    cases b <;> cases c <;> rfl
  · rw [hd, k2, alert1]
  · have hsl : ∀ j, n.slot j = d.slot j := Device.slot_of_slots (by rw [hlaunch])
    have hnp : n.nextParity p = d.nextParity p := by simp [Device.nextParity, hlaunch]
    simp only [Device.SlotsDown, hsl, hnp, hlaunch, hlap, hfail] at hs ⊢
    exact hs
  · rw [hd]

/-- The egress side does not touch the receiver or the transmitter of its own port. -/
theorem egressDown_port (p : PortId) (d : Device) : (egressDown p d).port p = d.port p := by
  have hr := (dropChosen_drops p d).1.append (dropRefs_drops p (d.arbiter p).queue (dropChosen p d))
  have hl := launchDown_frame p (((d.arbiter p).queue.foldl (dropRef p) (dropChosen p d)).onArbiter p
    fun a => { a with queue := [], chosen := none })
  show (launchDown p _).port p = _
  rw [hl.rest]
  exact hr.port

/-- An emptied egress side does not look at the port itself. -/
theorem Device.EgressEmptied.ofPort {p : PortId} {f : Port → Port} {d e : Device}
    (h : (d.onPort p f).EgressEmptied e p) : d.EgressEmptied e p := by
  obtain ⟨a1, a2, a3, a4, a5, a6, a7, a8, a9, a10⟩ := h
  refine ⟨a1, a2, ?_, a4, a5, a6, a7, a8, a9, a10⟩
  rwa [Device.port_onPort_opposite] at a3

/-- R19, R20, R75: a link drop. -/
theorem linkDrop_drops (p : PortId) (d : Device) : d.LinkDropped (linkDrop p d) p := by
  let f := fun P : Port =>
    { P.closeAccount with link := .seeking, readySent := false, tx := .between }
  have hdown : ((d.onPort p f).port p).online = false := by
    rw [Device.port_onPort_self]; rfl
  refine ⟨egressDown p (d.onPort p f), (egressDown_empties hdown).ofPort, ?_, rfl⟩
  have hp : (egressDown p (d.onPort p f)).port p = (d.onPort p f).port p :=
    egressDown_port p _
  rw [hp, Device.port_onPort_self]
  simp only [f, Port.closeAccount, Port.dropReception]

end Sys2Proof.Machine
end

