-- ==== Sys2Proof/Laws/Memory.lean ====
section
/-! SUPPORT. The byte memories: every operation keeps the canonical form, and what a read gives after a
write. -/

namespace Sys2Proof.Machine

theorem Memory.wf_nil : Memory.wf [] := ⟨List.Pairwise.nil, by simp⟩

theorem Memory.wf_tail {c : Host.Cell} {m : List Host.Cell} (h : Memory.wf (c :: m)) : Memory.wf m :=
  ⟨(List.pairwise_cons.mp h.1).2, fun x hx => h.2 x (List.mem_cons_of_mem _ hx)⟩

/-- The keys of a written memory are its old ones and the written address. -/
theorem Memory.write_keys {m : List Host.Cell} {a : Nat} {v : Byte} {c : Host.Cell}
    (h : c ∈ Memory.write m a v) : c ∈ m ∨ (c = (a, v) ∧ v ≠ 0) := by
  induction m with
  | nil =>
    by_cases hv : v = 0
    · simp [Memory.write, hv] at h
    · simp only [Memory.write, hv, if_false, List.mem_singleton] at h; exact .inr ⟨h, hv⟩
  | cons x m ih =>
    obtain ⟨k, w⟩ := x
    unfold Memory.write at h
    by_cases hv : v = 0
    · simp only [hv, if_true] at h
      split at h
      · exact .inl h
      · split at h
        · exact .inl (List.mem_cons_of_mem _ h)
        · rcases List.mem_cons.mp h with h | h
          · exact .inl (h ▸ List.mem_cons_self)
          · rcases ih (hv ▸ h) with h | h
            · exact .inl (List.mem_cons_of_mem _ h)
            · exact absurd hv h.2
    · simp only [hv, if_false] at h
      split at h
      · rcases List.mem_cons.mp h with h | h
        · exact .inr ⟨h, hv⟩
        · exact .inl h
      · split at h
        · rcases List.mem_cons.mp h with h | h
          · exact .inr ⟨h, hv⟩
          · exact .inl (List.mem_cons_of_mem _ h)
        · rcases List.mem_cons.mp h with h | h
          · exact .inl (h ▸ List.mem_cons_self)
          · rcases ih h with h | h
            · exact .inl (List.mem_cons_of_mem _ h)
            · exact .inr h

/-- A write keeps the canonical form. -/
theorem Memory.write_wf {m : List Host.Cell} (h : Memory.wf m) (a : Nat) (v : Byte) :
    Memory.wf (Memory.write m a v) := by
  refine ⟨?_, fun c hc => ?_⟩
  · induction m with
    | nil => unfold Memory.write; split <;> simp
    | cons x m ih =>
      obtain ⟨k, w⟩ := x
      have ht := Memory.wf_tail h
      obtain ⟨hk, hm⟩ := List.pairwise_cons.mp h.1
      unfold Memory.write
      split
      · rename_i hlt
        split
        · exact h.1
        · refine List.pairwise_cons.mpr ⟨fun c hc => ?_, h.1⟩
          rcases List.mem_cons.mp hc with hc | hc
          · subst hc; exact hlt
          · exact Nat.lt_trans hlt (hk c hc)
      · split
        · rename_i heq
          split
          · exact hm
          · exact List.pairwise_cons.mpr ⟨fun c hc => heq ▸ hk c hc, hm⟩
        · rename_i hlt hne
          refine List.pairwise_cons.mpr ⟨fun c hc => ?_, ih ht⟩
          rcases Memory.write_keys hc with hc | ⟨hc, _⟩
          · exact hk c hc
          · subst hc; simp only; omega
  · rcases Memory.write_keys hc with hc | ⟨hc, hv⟩
    · exact h.2 c hc
    · subst hc; exact hv

theorem Memory.writeBytes_wf {m : List Host.Cell} (h : Memory.wf m) (a : Nat) (bs : List Byte) :
    Memory.wf (Memory.writeBytes m a bs) := by
  induction bs generalizing m a with
  | nil => exact h
  | cons b bs ih => exact ih (Memory.write_wf h a b) (a + 1)

/-- An address below every key reads as 0. -/
theorem Memory.read_below {m : List Host.Cell} {a : Nat} (h : ∀ c ∈ m, a < c.1) :
    Memory.read m a = 0 := by
  induction m with
  | nil => rfl
  | cons x m ih =>
    have hx := h x List.mem_cons_self
    rw [Memory.read, if_neg (by omega)]
    exact ih fun c hc => h c (List.mem_cons_of_mem _ hc)

/-- What a byte reads as after one is written. -/
theorem Memory.read_write {m : List Host.Cell} (h : Memory.wf m) (a b : Nat) (v : Byte) :
    Memory.read (Memory.write m a v) b = if b = a then v else Memory.read m b := by
  induction m with
  | nil =>
    by_cases hv : v = 0
    · simp [Memory.write, Memory.read, hv]
    · rw [Memory.write, if_neg hv, Memory.read, Memory.read]
      by_cases hb : b = a
      · rw [if_pos hb.symm, if_pos hb]
      · rw [if_neg (Ne.symm hb), if_neg hb]; rfl
  | cons x m ih =>
    obtain ⟨k, w⟩ := x
    have ht := Memory.wf_tail h
    obtain ⟨hk, _⟩ := List.pairwise_cons.mp h.1
    by_cases h1 : a < k
    · have hz : b = a → Memory.read ((k, w) :: m) b = 0 := fun e => Memory.read_below fun c hc => by
        rcases List.mem_cons.mp hc with hc | hc
        · subst hc; simp only; omega
        · have := hk c hc; simp only at this; omega
      by_cases hv : v = 0
      · rw [Memory.write, if_pos h1, if_pos hv]
        split
        · rename_i e; rw [hz e, hv]
        · rfl
      · rw [Memory.write, if_pos h1, if_neg hv, Memory.read]
        by_cases e : b = a
        · rw [if_pos e.symm, if_pos e]
        · rw [if_neg (Ne.symm e), if_neg e]
    · by_cases h2 : a = k
      · have hz : b = a → Memory.read m b = 0 := fun e => Memory.read_below fun c hc => by
          have := hk c hc; simp only at this; omega
        rw [Memory.write, if_neg h1, if_pos h2]
        by_cases hv : v = 0
        · rw [if_pos hv, Memory.read]
          by_cases e : b = a
          · rw [if_pos e, hz e, hv]
          · rw [if_neg e, if_neg (by omega)]
        · rw [if_neg hv, Memory.read, Memory.read]
          by_cases e : b = a
          · rw [if_pos e.symm, if_pos e]
          · rw [if_neg (Ne.symm e), if_neg e, if_neg (by omega)]
      · rw [Memory.write, if_neg h1, if_neg h2, Memory.read, Memory.read, ih ht]
        by_cases e : b = a
        · rw [if_pos e, if_pos e, if_neg (by omega)]
        · rw [if_neg e, if_neg e]

/-- What a byte reads as after a run of bytes is written. -/
theorem Memory.read_writeBytes {m : List Host.Cell} (h : Memory.wf m) (a b : Nat) (bs : List Byte) :
    Memory.read (Memory.writeBytes m a bs) b =
      if h : a ≤ b ∧ b - a < bs.length then bs[b - a]'h.2 else Memory.read m b := by
  induction bs generalizing m a with
  | nil => simp [Memory.writeBytes]
  | cons x bs ih =>
    rw [Memory.writeBytes, ih (Memory.write_wf h a x) (a + 1), Memory.read_write h]
    by_cases hb : b = a
    · subst hb; simp
    · by_cases hr : a ≤ b ∧ b - a < (x :: bs).length
      · have hlen : b - a < bs.length + 1 := hr.2
        rw [dif_pos ⟨by omega, by omega⟩, dif_pos hr]
        have e : b - a = (b - (a + 1)) + 1 := by omega
        simp only [e, List.getElem_cons_succ]
      · have hlen : ¬(a ≤ b ∧ b - a < bs.length + 1) := hr
        rw [dif_neg (by omega), if_neg hb, dif_neg hr]

end Sys2Proof.Machine
end

