-- ==== Sys2Proof/Laws/PerInstr.lean ====
section
/-! SUPPORT. The per-instruction family: no row of the opcode table gives bits, so no table word spells a
command, whichever it is. -/

namespace Sys2Proof.Laws.NoTableWord

/-- No word of the table's bits spells the command. -/
def Statement (i : Instr) : Prop := ∀ nbits w, decodeTableWord nbits w ≠ some i

theorem fullReset (powerOnHigh : Bool) : Statement (.fullReset powerOnHigh) := by intro _ _ h; cases h
theorem resetRelease : Statement .resetRelease := by intro _ _ h; cases h
theorem lrstAssert : Statement .lrstAssert := by intro _ _ h; cases h
theorem lrstRelease : Statement .lrstRelease := by intro _ _ h; cases h
theorem lossOfSignal (p : PortId) : Statement (.lossOfSignal p) := by intro _ _ h; cases h
theorem signalReturn (p : PortId) : Statement (.signalReturn p) := by intro _ _ h; cases h
theorem rxSeek (p : PortId) : Statement (.rxSeek p) := by intro _ _ h; cases h
theorem rxReady (p : PortId) : Statement (.rxReady p) := by intro _ _ h; cases h
theorem rxIdle (p : PortId) : Statement (.rxIdle p) := by intro _ _ h; cases h
theorem rxCredit (p : PortId) (n : Nat) : Statement (.rxCredit p n) := by intro _ _ h; cases h
theorem rxSof (p : PortId) : Statement (.rxSof p) := by intro _ _ h; cases h
theorem rxDataSymbol (p : PortId) (byte : Byte) : Statement (.rxDataSymbol p byte) := by intro _ _ h; cases h
theorem rxEof (p : PortId) : Statement (.rxEof p) := by intro _ _ h; cases h
theorem rxAbort (p : PortId) : Statement (.rxAbort p) := by intro _ _ h; cases h
theorem rxSymbolError (p : PortId) : Statement (.rxSymbolError p) := by intro _ _ h; cases h
theorem txCredit (p : PortId) : Statement (.txCredit p) := by intro _ _ h; cases h
theorem txSof (p : PortId) : Statement (.txSof p) := by intro _ _ h; cases h
theorem txDataSymbol (p : PortId) : Statement (.txDataSymbol p) := by intro _ _ h; cases h
theorem txEof (p : PortId) : Statement (.txEof p) := by intro _ _ h; cases h
theorem txAbort (p : PortId) : Statement (.txAbort p) := by intro _ _ h; cases h
theorem copyCompletion : Statement .copyCompletion := by intro _ _ h; cases h
theorem readWord (address : Byte) : Statement (.readWord address) := by intro _ _ h; cases h
theorem writeWord (address : Byte) (value : Word) : Statement (.writeWord address value) := by intro _ _ h; cases h
theorem modifyWord (address : Byte) (value mask : Word) : Statement (.modifyWord address value mask) := by intro _ _ h; cases h
theorem enableBClear : Statement .enableBClear := by intro _ _ h; cases h
theorem enableBSet : Statement .enableBSet := by intro _ _ h; cases h
theorem tableWrite (index : Byte) (form : EntryForm) : Statement (.tableWrite index form) := by intro _ _ h; cases h
theorem tableRead (index : Byte) (clear : Bool) : Statement (.tableRead index clear) := by intro _ _ h; cases h
theorem tableInvalidate (first count : Byte) : Statement (.tableInvalidate first count) := by intro _ _ h; cases h
theorem counterRead (id : Byte) (clear : Bool) : Statement (.counterRead id clear) := by intro _ _ h; cases h
theorem seqReset (channel : Byte) : Statement (.seqReset channel) := by intro _ _ h; cases h
theorem faultRead (clear : Bool) : Statement (.faultRead clear) := by intro _ _ h; cases h
theorem setNode (number : Byte) : Statement (.setNode number) := by intro _ _ h; cases h
theorem echo (data : List Byte) : Statement (.echo data) := by intro _ _ h; cases h
theorem stationReset : Statement .stationReset := by intro _ _ h; cases h
theorem batchEnd : Statement .batchEnd := by intro _ _ h; cases h
theorem stationResetApplied : Statement .stationResetApplied := by intro _ _ h; cases h
theorem localReset (value : Word) : Statement (.localReset value) := by intro _ _ h; cases h
theorem localCauseWrite (value : Word) : Statement (.localCauseWrite value) := by intro _ _ h; cases h
theorem localEnableWrite (value : Word) : Statement (.localEnableWrite value) := by intro _ _ h; cases h
theorem noticeTake : Statement .noticeTake := by intro _ _ h; cases h
theorem freeReturn (value : Word) : Statement (.freeReturn value) := by intro _ _ h; cases h
theorem bufSelectWrite (value : Word) : Statement (.bufSelectWrite value) := by intro _ _ h; cases h
theorem bufDataRead (word : Byte) : Statement (.bufDataRead word) := by intro _ _ h; cases h
theorem slotHeaderWrite (slot : SlotId) (second : Bool) (value : Word) : Statement (.slotHeaderWrite slot second value) := by intro _ _ h; cases h
theorem slotSelectWrite (value : Word) : Statement (.slotSelectWrite value) := by intro _ _ h; cases h
theorem slotDataWrite (word : Byte) (value : Word) : Statement (.slotDataWrite word value) := by intro _ _ h; cases h
theorem slotHandover (value : Word) : Statement (.slotHandover value) := by intro _ _ h; cases h
theorem slotRecall (value : Word) : Statement (.slotRecall value) := by intro _ _ h; cases h
theorem lapBadCommand (code : Byte) : Statement (.lapBadCommand code) := by intro _ _ h; cases h
theorem lapReadOnlyWrite (address : Half) (value : Word) : Statement (.lapReadOnlyWrite address value) := by intro _ _ h; cases h
theorem transactionBegin : Statement .transactionBegin := by intro _ _ h; cases h
theorem transactionEnd : Statement .transactionEnd := by intro _ _ h; cases h

end Sys2Proof.Laws.NoTableWord
end

