-- ==== Sys2Proof/Laws/Reception.lean ====
section
/-! SUPPORT. One byte of a frame in reception, the key of an arriving frame, and the offer of a request. -/

namespace Sys2Proof.Machine

/-- R13, R28: a good byte of an undamaged frame. -/
theorem RxFrame.fill_good {f : RxFrame} {b : Byte} (h : f.damaged = false) :
    f.fill (some b) = f.withByte b := by
  have check : ∀ g : RxFrame, g.takeCheck b = { g with
      check := match g.lastFour with
        | [oldest, _, _, _] => checkByte g.check oldest
        | _ => g.check
      lastFour := if g.lastFour.length = 4 then g.lastFour.tail ++ [b] else g.lastFour ++ [b] } := by
    intro g
    rcases hg : g.lastFour with _ | ⟨_, _ | ⟨_, _ | ⟨_, _ | ⟨_, _ | ⟨_, _⟩⟩⟩⟩⟩ <;>
      simp [RxFrame.takeCheck, hg]
  have store : f.store b = { f with
      headerBytes := if f.count < 8 then f.headerBytes ++ [b] else f.headerBytes
      stored :=
        if 8 ≤ f.count ∧ f.charge.isSome ∧ f.header.any (fun h => f.count < 12 + h.length.toNat) then
          f.stored ++ [b]
        else f.stored } := by
    unfold RxFrame.store
    by_cases h8 : f.count < 8
    · rw [if_pos h8, if_pos h8, if_neg (by omega)]
    · rw [if_neg h8, if_neg h8]
      have h8' : 8 ≤ f.count := by omega
      rcases f with ⟨count, _, _, _ | _, _, _ | header, _, _, _⟩
      · simp
      · simp
      · simp
      · by_cases hl : count < 12 + header.length.toNat <;> simp [h8', hl]
  have filled : f.fill (some b) = { (f.store b).takeCheck b with count := f.count + 1 } := by
    simp [RxFrame.fill, h]
  rw [filled, check, store]
  rfl

/-- R34: no resident frame of the port has the key that an arriving frame is given (log 16). -/
theorem Port.freshKey_fresh (P : Port) : ∀ r ∈ P.residents, r.key ≠ P.freshKey := by
  have bound : ∀ (l : List Nat) (a x : Nat), x ∈ l ∨ x ≤ a → x ≤ l.foldl max a := by
    intro l
    induction l with
    | nil => simp
    | cons y l ih =>
      intro a x h
      apply ih
      rcases h with h | h
      · rcases List.mem_cons.1 h with rfl | h
        · exact .inr (Nat.le_max_right _ _)
        · exact .inl h
      · exact .inr (Nat.le_trans h (Nat.le_max_left _ _))
  intro r hr
  have := bound (P.residents.map Resident.key) 0 r.key (.inl (List.mem_map_of_mem hr))
  unfold Port.freshKey
  omega

/-- R123: a copy that fits joins the queue and may start; one that does not is an overrun. -/
theorem offerCopy_cases (h : Header) (q : RequestCopy) (d : Device) :
    (d.agent.queue.length < 2 ∧ offerCopy h q d =
        startRequest (d.onAgent fun a => { a with queue := a.queue ++ [q] }))
      ∨ (2 ≤ d.agent.queue.length ∧
        offerCopy h q d = (d.count .overrun).report (portFault .agentOverrun .a (some h))) := by
  unfold offerCopy
  split
  · exact .inl ⟨by assumption, rfl⟩
  · exact .inr ⟨by omega, rfl⟩

/-- R66, R68: the choice from the origin list does not look at the list a second time. -/
theorem chooseOrigin_origin (l x : List OriginEntry) (d : Device) :
    chooseOrigin l { d with origin := x } = chooseOrigin l d := by
  induction l generalizing d with
  | nil => rfl
  | cons e rest ih =>
    unfold chooseOrigin
    split
    · rename_i h1 h2
      have h2 : d.stats.record = none := h2
      simp only [h1, h2]
      exact ih (d.setAlertPending false)
    · rename_i h1 h2
      have h2 : d.stats.record = some _ := h2
      simp only [h1, h2]
      rfl
    · rename_i h1
      simp only [h1]
    · rename_i h1
      simp only [h1]

end Sys2Proof.Machine
end

