-- ==== Sys2Proof/Laws/Records.lean ====
section
/-! SUPPORT. The byte forms read back: words, halves, the entry form and the records of a request. -/

namespace Sys2Proof.Machine

/-! ## Words and halves -/

theorem halfOf_bytes (h : Half) : halfOf (h.extractLsb' 8 8) (h.extractLsb' 0 8) = h := by
  apply BitVec.eq_of_getLsbD_eq
  intro i hi
  rw [halfOf, BitVec.getLsbD_append]
  simp only [BitVec.getLsbD_extractLsb']
  interval_cases i <;> simp

theorem halfOf_high (a b : Byte) : (halfOf a b).extractLsb' 8 8 = a := by
  apply BitVec.eq_of_getLsbD_eq
  intro i hi
  simp only [halfOf, BitVec.getLsbD_extractLsb', BitVec.getLsbD_append]
  interval_cases i <;> simp

theorem halfOf_low (a b : Byte) : (halfOf a b).extractLsb' 0 8 = b := by
  apply BitVec.eq_of_getLsbD_eq
  intro i hi
  simp only [halfOf, BitVec.getLsbD_extractLsb', BitVec.getLsbD_append]
  interval_cases i <;> simp

/-- The four bytes of a word, which it is read back from. -/
theorem wordBytes_exists (v : Word) : ∃ a b c d, wordBytes v = [a, b, c, d] ∧ wordOf a b c d = v := by
  refine ⟨_, _, _, _, rfl, ?_⟩
  apply BitVec.eq_of_getLsbD_eq
  intro i hi
  simp only [wordOf, BitVec.getLsbD_append, BitVec.getLsbD_extractLsb']
  interval_cases i <;> simp

theorem wordBytes_wordOf (a b c d : Byte) : wordBytes (wordOf a b c d) = [a, b, c, d] := by
  simp only [wordBytes, wordOf, List.cons.injEq, and_true]
  refine ⟨?_, ?_, ?_, ?_⟩ <;>
    (apply BitVec.eq_of_getLsbD_eq
     intro i hi
     simp only [BitVec.getLsbD_extractLsb', BitVec.getLsbD_append]
     interval_cases i <;> simp)

/-! ## The entry form (Table 13.4) -/

/-- The bits of the first byte of an entry form. -/
theorem formByte_bit (v t : Bool) (a : BitVec 2) (spare : BitVec 1) (act : BitVec 3) (i : Nat) :
    (BitVec.ofBool v ++ BitVec.ofBool t ++ a ++ spare ++ act : Byte).getLsbD i =
      if i < 3 then act.getLsbD i
      else if i - 3 < 1 then spare.getLsbD (i - 3)
      else if i - 3 - 1 < 2 then a.getLsbD (i - 3 - 1)
      else if i - 3 - 1 - 2 < 1 then (BitVec.ofBool t).getLsbD (i - 3 - 1 - 2)
      else (BitVec.ofBool v).getLsbD (i - 3 - 1 - 2 - 1) := by
  rw [BitVec.getLsbD_append, BitVec.getLsbD_append, BitVec.getLsbD_append, BitVec.getLsbD_append]

/-- Seven bytes that lay out a form are decoded to it. -/
theorem decodeForm_laidOut {f : EntryForm} {bytes : List Byte} (h : EntryForm.LaidOut f bytes) :
    ∃ b0 b1 b2 b3 b4 b5 b6,
      bytes = [b0, b1, b2, b3, b4, b5, b6] ∧ decodeForm b0 b1 b2 b3 b4 b5 b6 = f := by
  obtain ⟨spare, rfl⟩ := h
  refine ⟨_, _, _, _, _, _, _, rfl, ?_⟩
  rcases f with ⟨v, t, a, act, o, b, nb, c⟩
  have h7 : (BitVec.ofBool v ++ BitVec.ofBool t ++ a ++ spare ++ act : Byte).getLsbD 7 = v := by
    rw [formByte_bit]; simp
  have h6 : (BitVec.ofBool v ++ BitVec.ofBool t ++ a ++ spare ++ act : Byte).getLsbD 6 = t := by
    rw [formByte_bit]; simp
  have h4 : (BitVec.ofBool v ++ BitVec.ofBool t ++ a ++ spare ++ act : Byte).extractLsb' 4 2 = a := by
    apply BitVec.eq_of_getLsbD_eq
    intro i hi
    rw [BitVec.getLsbD_extractLsb', formByte_bit]
    interval_cases i <;> simp
  have h0 : (BitVec.ofBool v ++ BitVec.ofBool t ++ a ++ spare ++ act : Byte).extractLsb' 0 3 = act := by
    apply BitVec.eq_of_getLsbD_eq
    intro i hi
    rw [BitVec.getLsbD_extractLsb', formByte_bit]
    interval_cases i <;> simp
  simp only [decodeForm, halfOf_bytes, h7, h6, h4, h0]

/-- The form decoded from seven bytes is laid out in them. -/
theorem laidOut_decodeForm (b0 b1 b2 b3 b4 b5 b6 : Byte) :
    EntryForm.LaidOut (decodeForm b0 b1 b2 b3 b4 b5 b6) [b0, b1, b2, b3, b4, b5, b6] := by
  refine ⟨b0.extractLsb' 3 1, ?_⟩
  simp only [decodeForm, halfOf_high, halfOf_low]
  congr 1
  apply BitVec.eq_of_getLsbD_eq
  intro i hi
  rw [formByte_bit]
  simp only [BitVec.getLsbD_extractLsb']
  interval_cases i <;> simp

/-! ## Records (R127, R186) -/

theorem flagOf_eq {c : Bool} {flag : Byte} (h : c = true ↔ flag ≠ 0) : flagOf flag = c := by
  rw [Bool.eq_iff_iff]
  simp [flagOf, h]

/-- A record of `o` is parsed as `o`, whatever follows it. -/
theorem parseRecord_laidOut {o : Op} {record : List Byte} (rest : List Byte)
    (h : Op.LaidOut o record) : parseRecord (record ++ rest) = some (o, rest) := by
  cases o <;> simp only [Op.LaidOut] at h
  case writeWord a v =>
    obtain ⟨_, _, _, _, h1, h2⟩ := wordBytes_exists v
    rw [h, h1, ← h2]
    rfl
  case modifyWord a v m =>
    obtain ⟨_, _, _, _, h1, h2⟩ := wordBytes_exists v
    obtain ⟨_, _, _, _, h3, h4⟩ := wordBytes_exists m
    rw [h, h1, h3, ← h2, ← h4]
    rfl
  case tableWrite i f =>
    obtain ⟨_, hf, rfl⟩ := h
    obtain ⟨_, _, _, _, _, _, _, rfl, rfl⟩ := decodeForm_laidOut hf
    rfl
  case tableRead i c =>
    obtain ⟨_, rfl, hf⟩ := h
    rw [← flagOf_eq hf]
    rfl
  case counterRead i c =>
    obtain ⟨_, rfl, hf⟩ := h
    rw [← flagOf_eq hf]
    rfl
  case faultRead c =>
    obtain ⟨_, rfl, hf⟩ := h
    rw [← flagOf_eq hf]
    rfl
  case echo data =>
    obtain ⟨n, hn, rfl⟩ := h
    show (if n.toNat ≤ (data ++ rest).length then _ else _) = _
    rw [if_pos (by simp [hn])]
    simp [hn]
  all_goals
    subst h
    rfl

/-- What is parsed as `o` begins with a record of `o`. -/
theorem laidOut_of_parseRecord {o : Op} {payload rest : List Byte}
    (h : parseRecord payload = some (o, rest)) :
    ∃ record, Op.LaidOut o record ∧ payload = record ++ rest := by
  have flag : ∀ c : Byte, flagOf c = true ↔ c ≠ 0 := by simp [flagOf]
  unfold parseRecord at h
  split at h
  · cases h
  rename_i code operands
  have coded : ∀ n : Nat, code.toNat = n → code = BitVec.ofNat 8 n := by
    rintro _ rfl
    simp
  split at h
  all_goals try (rename_i hc; have hc := coded _ hc)
  all_goals try (injection h with h; injection h with h1 h2; subst h1; subst h2)
  · exact ⟨_, rfl, by rw [hc]; rfl⟩
  · exact ⟨_, rfl, by rw [hc, wordBytes_wordOf]; rfl⟩
  · exact ⟨_, rfl, by rw [hc, wordBytes_wordOf, wordBytes_wordOf]; rfl⟩
  · exact ⟨_, ⟨_, laidOut_decodeForm _ _ _ _ _ _ _, rfl⟩, by rw [hc]; rfl⟩
  · exact ⟨_, ⟨_, rfl, flag _⟩, by rw [hc]; rfl⟩
  · exact ⟨_, rfl, by rw [hc]; rfl⟩
  · exact ⟨_, ⟨_, rfl, flag _⟩, by rw [hc]; rfl⟩
  · exact ⟨_, rfl, by rw [hc]; rfl⟩
  · exact ⟨_, ⟨_, rfl, flag _⟩, by rw [hc]; rfl⟩
  · exact ⟨_, rfl, by rw [hc]; rfl⟩
  · split at h
    · injection h with h
      injection h with h1 h2
      subst h1
      subst h2
      rename_i n data _ _
      exact ⟨_, ⟨n, by simp; omega, rfl⟩, by rw [hc]; simp⟩
    · cases h
  · exact ⟨_, rfl, by rw [hc]; rfl⟩
  · cases h

/-- At most `n` records are parsed exactly when the payload lays them out end to end. -/
theorem parseRecords_eq_some (n : Nat) (payload : List Byte) (ops : List Op) :
    parseRecords n payload = some ops ↔ Op.listLaidOut ops payload ∧ ops.length ≤ n := by
  have nonempty : ∀ {o record}, Op.LaidOut o record → record ≠ [] := by
    rintro o record h rfl
    cases parseRecord_laidOut [] h
  induction n generalizing payload ops with
  | zero => cases payload <;> cases ops <;> simp [parseRecords, Op.listLaidOut]
  | succ n ih =>
    match payload, ops with
    | [], [] => simp [parseRecords, Op.listLaidOut]
    | [], o :: ops =>
      refine ⟨by simp [parseRecords], ?_⟩
      rintro ⟨⟨record, rest, h1, h2, h3⟩, -⟩
      exact absurd (List.append_eq_nil_iff.1 h3.symm).1 (nonempty h1)
    | b :: bs, ops =>
      simp only [parseRecords]
      constructor
      · intro h
        split at h
        · cases h
        · rename_i o rest hr
          obtain ⟨os, hos, rfl⟩ := Option.map_eq_some_iff.1 h
          obtain ⟨hl, hn⟩ := (ih _ _).1 hos
          obtain ⟨record, h1, h2⟩ := laidOut_of_parseRecord hr
          exact ⟨⟨record, rest, h1, hl, h2⟩, by simpa using hn⟩
      · rintro ⟨h, hn⟩
        cases ops with
        | nil => cases h
        | cons o os =>
          obtain ⟨record, rest, h1, h2, h3⟩ := h
          rw [h3, parseRecord_laidOut rest h1]
          dsimp only
          rw [(ih rest os).2 ⟨h2, by simpa using hn⟩]
          rfl

end Sys2Proof.Machine
end

