-- ==== Sys2Proof/Laws/Resets.lean ====
section
/-! SUPPORT. What a local reset does, block by block. -/

namespace Sys2Proof.Machine

/-- R93: some first bytes of the item being copied are in its buffer, and one value has been drawn. -/
theorem stopCopy_stops (d : Device) :
    ∃ mem drawn, stopCopy d = { d with capture := { d.capture with mem := mem }, choices := drawn }
      ∧ (d.capture.work = [] → mem = d.capture.mem)
      ∧ ∀ w rest, d.capture.work = w :: rest → ∃ n ≤ w.capturedLength,
          mem = Memory.writeBytes d.capture.mem (1024 * w.buffer.val)
            (((((d.port w.port).findResident w.key).map fun r => r.frame.payload).getD []).take n) := by
  unfold stopCopy
  split
  · rename_i h
    exact ⟨_, _, rfl, fun _ => rfl, by simp [h]⟩
  · rename_i w rest h
    refine ⟨_, _, rfl, by simp [h], ?_⟩
    intro w' rest' h'
    rw [h] at h'
    injection h' with h1 h2
    subst h1
    exact ⟨_, Nat.min_le_right _ _, rfl⟩

/-- A resident frame without its capture use. -/
def Resident.lessCapture (r : Resident) : Resident := { r with captureUse := false }

/-- R38. -/
theorem Port.endCaptures_ends (P : Port) :
    P.endCaptures = { P with
      residents := (P.residents.filter fun r => r.forwardUse).map Resident.lessCapture
      unannounced := P.unannounced + blocksOf (P.residents.filter fun r => !r.forwardUse) } := by
  have kept : ∀ rs : List Resident, (rs.map Resident.lessCapture).filter Resident.inUse =
      (rs.filter fun r => r.forwardUse).map Resident.lessCapture := by
    intro rs
    rw [List.filter_map]
    congr 1
    apply List.filter_congr
    intro r _
    simp [Resident.inUse, Resident.lessCapture]
  have gone : ∀ rs : List Resident,
      blocksOf ((rs.map Resident.lessCapture).filter fun r => !r.inUse) =
        blocksOf (rs.filter fun r => !r.forwardUse) := by
    intro rs
    have h : ((fun r : Resident => !r.inUse) ∘ Resident.lessCapture) = fun r => !r.forwardUse := by
      funext r
      simp [Resident.inUse, Resident.lessCapture]
    rw [List.filter_map, h]
    simp only [blocksOf, List.map_map]
    rfl
  show Port.release { P with residents := P.residents.map Resident.lessCapture } = _
  simp only [Port.release, kept, gone]

/-- R77. -/
theorem withdrawLaunch_withdraws (p : PortId) (d : Device) :
    withdrawLaunch p d = { d with
      ports := d.ports.set p { d.port p with
        tx := if (d.arbiter p).chosen.any (fun c => c.frame.isLaunch && c.sending) then
            abortTransmission (d.port p).tx
          else (d.port p).tx }
      egress := d.egress.set p { d.arbiter p with
        chosen := (d.arbiter p).chosen.filter fun c => !c.frame.isLaunch } } := by
  rcases d with ⟨_, _, _, ⟨⟨_, _, ca⟩, ⟨_, _, cb⟩⟩, _, _, _, _, _, _, _, _, _⟩
  cases p
  · rcases ca with _ | ⟨(_ | _ | _), (_ | _)⟩ <;> rfl
  · rcases cb with _ | ⟨(_ | _ | _), (_ | _)⟩ <;> rfl

/-- R106. -/
theorem captureLocalReset_resets (d : Device) :
    ∃ mem drawn, captureLocalReset d = { d with
        choices := drawn
        ports := ⟨d.ports.a.endCaptures, d.ports.b.endCaptures⟩
        capture := { d.capture with
          mem := mem, work := [], delivery := [], free := List.finRange 32
          buffers := d.capture.buffers.map fun b => { b with state := .pooled }
          channels := d.capture.channels.map fun c => { c with held := 0, starved := false } } }
      ∧ (d.capture.work = [] → mem = d.capture.mem)
      ∧ ∀ w rest, d.capture.work = w :: rest → ∃ n ≤ w.capturedLength,
          mem = Memory.writeBytes d.capture.mem (1024 * w.buffer.val)
            (((((d.port w.port).findResident w.key).map fun r => r.frame.payload).getD []).take n) := by
  obtain ⟨mem, drawn, h, hm⟩ := stopCopy_stops d
  refine ⟨mem, drawn, ?_, hm⟩
  unfold captureLocalReset
  rw [h]
  rfl

/-- R184, with R77, R106 and R121: a local reset resets three blocks and then lets the arbiters choose. -/
theorem localReset_resets (d : Device) : ∃ m, localReset d = arbitrate m ∧ d.LocallyReset m := by
  refine ⟨_, rfl, ?_⟩
  obtain ⟨mem, drawn, hc, m1, m2⟩ := captureLocalReset_resets d
  have hl : ∀ d : Device, launchLocalReset d = { d with
      ports := (withdrawLaunch .b (withdrawLaunch .a d)).ports
      egress := (withdrawLaunch .b (withdrawLaunch .a d)).egress
      launch := { d.launch with
        slots := ⟨⟨d.launch.slots.a.even.localReset, d.launch.slots.a.odd.localReset⟩,
          ⟨d.launch.slots.b.even.localReset, d.launch.slots.b.odd.localReset⟩⟩
        next := ⟨.even, .even⟩, txSeq := ⟨false, false⟩ } } := by
    intro d
    unfold launchLocalReset
    dsimp only
    rw [withdrawLaunch_withdraws .b, withdrawLaunch_withdraws .a]
  have port : ∀ p, (lapLocalReset (launchLocalReset (captureLocalReset d))).port p =
      { d.port p with
        residents := ((d.port p).residents.filter fun r => r.forwardUse).map fun r =>
          { r with captureUse := false }
        unannounced := (d.port p).unannounced
          + blocksOf ((d.port p).residents.filter fun r => !r.forwardUse)
        tx := if (d.arbiter p).chosen.any (fun c => c.frame.isLaunch && c.sending) then
            abortTransmission (d.port p).tx
          else (d.port p).tx } := by
    intro p
    show (launchLocalReset (captureLocalReset d)).port p = _
    rw [hl, hc]
    show (withdrawLaunch .b (withdrawLaunch .a _)).port p = _
    rw [withdrawLaunch_withdraws .b, withdrawLaunch_withdraws .a]
    cases p
    · show ({ d.ports.a.endCaptures with tx := _ } : Port) = _
      rw [Port.endCaptures_ends]
      rfl
    · show ({ d.ports.b.endCaptures with tx := _ } : Port) = _
      rw [Port.endCaptures_ends]
      rfl
  have arbiter : ∀ p, (lapLocalReset (launchLocalReset (captureLocalReset d))).arbiter p =
      { d.arbiter p with chosen := (d.arbiter p).chosen.filter fun c => !c.frame.isLaunch } := by
    intro p
    show (launchLocalReset (captureLocalReset d)).arbiter p = _
    rw [hl, hc]
    show (withdrawLaunch .b (withdrawLaunch .a _)).arbiter p = _
    rw [withdrawLaunch_withdraws .b, withdrawLaunch_withdraws .a]
    cases p <;> rfl
  refine ⟨⟨?_, ?_, ?_, ?_, ?_, ?_, ?_⟩, ⟨?_, ?_, ?_, ?_⟩, ?_, ?_, fun p => ⟨port p, arbiter p⟩,
    ?_, ?_, ?_, ?_, ?_, ?_, ?_⟩
  all_goals rw [hl, hc]
  all_goals try rfl
  · intro b
    simp [lapLocalReset, Device.buffer]
  · intro c
    simp [lapLocalReset, Device.channel]
  · exact m1
  · exact m2
  · rintro ⟨p, k⟩
    cases p <;> cases k <;> rfl
  · simp [lapLocalReset, Device.latt]

end Sys2Proof.Machine
end

