-- ==== Sys2Proof/Tests/Slice0.lean ====
section
/-! SUPPORT. The model's own tests: the well-formedness check, the spec's worked figures, one event each of
a few commands, and, for every statement with hypotheses, states and operands that meet them. -/

namespace Sys2Proof.Tests

open Sys2Proof.Machine

/-! ## The check of commands -/

theorem test_credit_of_none_is_refused : ¬Instr.WellFormed (.rxCredit .a 0) := by decide
theorem test_credit_of_64_is_refused : ¬Instr.WellFormed (.rxCredit .b 64) := by decide
theorem test_credit_of_63_passes : Instr.WellFormed (.rxCredit .b 63) := by decide
theorem test_echo_of_256_bytes_is_refused : ¬Instr.WellFormed (.echo (List.replicate 256 0)) := by
  decide +kernel
theorem test_read_byte_is_no_bad_command : ¬Instr.WellFormed (.lapBadCommand 0x01) := by decide
theorem test_write_byte_is_no_bad_command : ¬Instr.WellFormed (.lapBadCommand 0x02) := by decide
theorem test_free_return_is_no_read_only_word : ¬Instr.WellFormed (.lapReadOnlyWrite 0x0010 0) := by
  decide
theorem test_ends_of_slot_data_are_no_read_only_words :
    ¬Instr.WellFormed (.lapReadOnlyWrite 0x0200 0) ∧ ¬Instr.WellFormed (.lapReadOnlyWrite 0x02FF 0)
      ∧ Instr.WellFormed (.lapReadOnlyWrite 0x0300 0) := by decide

/-! ## Figures of the spec -/

/-- Table 2.4, the ends of its rows. -/
theorem test_block_counts :
    [0, 52, 53, 116, 117, 180, 181, 244, 245, 500, 501, 756, 757, 1012, 1013, 1024].map blockCount
      = [1, 1, 2, 2, 3, 3, 4, 4, 5, 8, 9, 12, 13, 16, 17, 17] := by decide

def entryAt (base : Half) (order : Fin 17) (applies : Applies) (action : Action) : Entry :=
  { Entry.reset with valid := true, base, order, applies, action }

def translating (base newBase : Half) (order : Fin 17) : Entry :=
  { entryAt base order .both .forward with translate := true, newBase }

/-- The examples under R46. -/
theorem test_translations :
    (translating 0x0100 0x0800 4).forwardLabel 0x0105 = 0x0805
      ∧ (translating 0x0100 0x0A00 8).forwardLabel 0x01C7 = 0x0AC7
      ∧ (translating 0x4000 0x7000 12).forwardLabel 0x4ABC = 0x7ABC
      ∧ (translating 0x0123 0x0456 0).forwardLabel 0x0123 = 0x0456
      ∧ (translating 0x0000 0x0000 16).forwardLabel 0x1234 = 0x1234 := by decide

/-- The table of section 4.7. -/
def overlapping : Table :=
  { entries := Table.reset.entries
      |>.set 0 (entryAt 0x0140 4 .down .capture)
      |>.set 1 (translating 0x0100 0x0A00 8)
      |>.set 2 (entryAt 0x0000 12 .up .discard)
      |>.set 5 (entryAt 0x0100 6 .both .copy)
    discardDown := false, discardUp := true }

/-- The six lookups of section 4.7. -/
theorem test_overlapping_lookups :
    overlapping.winner .a 0x0145 = some 0 ∧ overlapping.winner .b 0x0145 = some 1
      ∧ overlapping.winner .a 0x0120 = some 1 ∧ overlapping.winner .b 0x0800 = some 2
      ∧ overlapping.winner .a 0x0800 = none ∧ overlapping.winner .b 0x2000 = none := by
  decide +kernel

/-- The text under Table 4.2: BASE 0120H is aligned for ORDER 5 and not for 6. -/
theorem test_alignment : aligned 0x0120 5 = true ∧ aligned 0x0120 6 = false := by decide

/-- Section 13.5: REPEAT_DROP of channel 3 is id 48. -/
theorem test_repeat_drop_id : (CounterId.channel 3 .repeatDrop).id = 48 := by decide

/-- R13 is the common CRC-32 with its register unreflected: the digits 1 to 9 give CBF43926H reversed. -/
theorem test_check_of_digits :
    checkValue [0x31, 0x32, 0x33, 0x34, 0x35, 0x36, 0x37, 0x38, 0x39] = 0x649C2FD3 := by
  decide +kernel

/-- Table 13.1: kind, SEQ and spare in byte 0, hops in byte 1, then LABEL, LENGTH, SOURCE and TAG. -/
theorem test_header_bytes :
    encodeHeader (composeHeader .data true 5 0x0140 0x0102 3 0x21)
      = [0x18, 0x05, 0x01, 0x40, 0x01, 0x02, 0x03, 0x21] := by decide

/-! ## States for the witnesses -/

/-- A live part with one command waiting. -/
def withOne (d : Device) (i : Instr) : State := { dev := d, pending := [i] }

def quiet (d : Device) : State := { dev := d, pending := [] }

def onlinePort : Port :=
  { Port.reset with link := .online, held := 5, outstanding := 38, unannounced := 2 }

/-- Both ports ONLINE. -/
def online : Device := { Device.reset with ports := ⟨onlinePort, onlinePort⟩ }

/-- Port A ONLINE and inside the frame `f`. -/
def receiving (f : RxFrame) : Device := online.onPort .a fun P => { P with rx := some f }

def atCount (n : Nat) : RxFrame := { RxFrame.fresh with count := n }

def dataHeader (length : Half) (hops : BitVec 6) : Header :=
  composeHeader .data false hops 0x0040 length 3 0

def dataFrame : Frame := { header := dataHeader 2 5, payload := [0xAA, 0xBB] }

/-- `dataFrame` as received up to its EOF. -/
def complete : RxFrame :=
  let f := dataFrame.bytes.foldl (fun f b => f.fill (some b)) RxFrame.fresh
  { f with header := some dataFrame.header, charge := some 1, stored := [0xAA, 0xBB] ++ f.lastFour }

def reference : ForwardRef := { key := 1, blocks := 1, hops := 4, label := 0x0040, next := none }

def item : WorkItem :=
  { buffer := 0, channel := 0, port := .a, entry := 0, label := 0x0040, source := 3, seq := false
    fullLength := 2, capturedLength := 2, clipped := false, key := 1 }

/-- Both ports ONLINE, node number 5, a frame of port A waiting at port B and for the copy engine. -/
def busy : Device :=
  { online with
    ports :=
      ⟨{ onlinePort with residents :=
          [{ key := 1, frame := dataFrame, blocks := 1, forwardUse := true, captureUse := true }]
                        , unannounced := 1 }, { onlinePort with unannounced := 0, outstanding := 40 }⟩
    egress := ⟨Egress.reset, { Egress.reset with
      chosen := some { frame := .forward reference, sending := false } }⟩
    capture := { Capture.reset with
      channels := Capture.reset.channels.set 0 { Channel.reset with enabled := true, held := 1 }
      buffers := Capture.reset.buffers.set 0 { state := .filling, channel := 0 }
      free := (List.finRange 32).tail, work := [item] }
    agent := { Agent.reset with node := 5 } }

/-- `busy`, with a second frame of one block wholly received at port A and charged. -/
def charging : Device :=
  busy.onPort .a fun P => { P with rx := some complete, outstanding := P.outstanding - 1 }

/-- A batch that has come to `o`. -/
def atOp (o : Op) : Batch := { waiting := [o], results := [], failed := false }

def atOperation (o : Op) : State :=
  quiet { online with agent := { Agent.reset with
    queue := [{ tag := 1, broadcast := false, length := 2, payload := [] }], batch := some (atOp o) } }

theorem due (o : Op) : (atOperation o).dev.AtOperation (atOp o) o := ⟨rfl, rfl, rfl, rfl, rfl⟩

def inTransaction (x : LapContext) : State :=
  quiet { Device.reset with
    pins := { Pins.reset with lcsLow := true }, lap := { Lap.reset with context := x } }

theorem dueAlone (c : LapCommand) (a : Half) : Device.reset.WordDue c a := ⟨rfl, .inl ⟨rfl, rfl⟩⟩

theorem dueOpened (c : LapCommand) (a : Half) : (inTransaction .opened).dev.WordDue c a :=
  ⟨rfl, .inr (.inl rfl)⟩

theorem dueNext (c : LapCommand) (a : Half) :
    (inTransaction (.words c a 0)).dev.WordDue c a := by
  refine ⟨rfl, .inr (.inr ⟨a, 0, rfl, ?_⟩)⟩
  cases c <;> simp [continues, readReaches]

/-! ## One event each -/

/-- The part after one command. -/
def after (i : Instr) (d : Device) : Device :=
  match exec i (quiet d) with
  | .next t => t.dev
  | .fault _ | .refused _ => d

theorem test_copy_posts_two_bytes :
    (after .copyCompletion busy).capture.mem = [(0, 0xAA), (1, 0xBB)]
      ∧ (after .copyCompletion busy).capture.delivery = [noticeOf item]
      ∧ ((after .copyCompletion busy).port .a).residents.map Resident.captureUse = [false] := by
  decide +kernel

theorem test_sof_spends_held :
    ((after (.txSof .b) busy).port .b).held = 4 ∧ ((after (.txSof .b) busy).port .b).lastSent = [.sof] := by
  decide +kernel

theorem test_last_ready_grants_forty :
    let d := after (.rxReady .a) (after (.rxReady .a) Device.reset)
    (d.port .a).link = .online ∧ (d.port .a).outstanding = 40
      ∧ (d.port .a).lastSent = [.ready, .credit 40] := by decide +kernel

theorem test_handover_without_a_number :
    let d := after (.slotHandover 0) online
    (d.slot ⟨.a, .even⟩).status = .unnumbered ∧ d.nextParity .a = .odd ∧ d.counter .launchFailed = 1
      ∧ d.lap.launchDone = true := by decide +kernel

theorem test_link_drop_of_a_waiting_frame :
    let d := after (.lossOfSignal .b) busy
    d.counter (.port .b .egressDropped) = 1 ∧ d.counter (.port .b .linkDrops) = 1
      ∧ (d.port .b).unannounced = 40 ∧ (d.arbiter .b).chosen = none
      ∧ d.stats.record = some (portFault .linkDrop .b none) := by decide +kernel

theorem test_eof_of_a_short_frame_is_a_check_error :
    let d := after (.rxEof .a) (receiving { RxFrame.fresh with count := 8, lastFour := [1, 2, 3, 4] })
    d.counter (.port .a .crcErr) = 1 ∧ (d.port .a).rx = none ∧ (d.port .a).unannounced = 3 := by
  decide +kernel

theorem test_write_to_local_ident_sets_access_fault :
    (after (.lapReadOnlyWrite 0 0) Device.reset).lap.accessFault = true := by decide +kernel

theorem test_echo_of_57_bytes_fails :
    ((after (.echo (List.replicate 57 1)) (atOperation (.echo (List.replicate 57 1))).dev).agent.batch.map
        fun b => (b.failed, b.results.map OpResult.status)) = some (true, [.badOperand]) := by
  decide +kernel

/-! ## Statements about the queue, the resets and the link -/

theorem test_meets_StepRunsTheFrontCommand :
    (withOne busy .copyCompletion).pending = Instr.copyCompletion :: [] := rfl

theorem test_meets_EveryCommandAnswersNext : State.reset.pending = [] := rfl

theorem test_meets_HeldPartTakesNoEvent :
    (fullReset true busy).pins.resetLow = true
      ∧ (∀ high, Instr.rxSof .a ≠ .fullReset high) ∧ Instr.rxSof .a ≠ .resetRelease := by decide

theorem test_meets_LocalResetReachesThreeBlocks :
    (lrstLow Device.reset).pins.lrstLow = true
      ∧ busy.Live ∧ busy.pins.lrstLow = false ∧ busy.WordDue .write 0x0004
      ∧ (inTransaction (.words .write 0x0004 0)).dev.WordDue .write 0x0004
      ∧ Device.reset.capture.work = [] ∧ busy.capture.work = item :: [] :=
  ⟨rfl, rfl, rfl, ⟨rfl, .inl ⟨rfl, rfl⟩⟩, dueNext _ _, rfl, rfl⟩

def secondReady : Device := Device.reset.onPort .a fun P => { P with readySent := true }

/-- Port B, enabled again while it owes the ABORT of the frame that its disable cut short. -/
def owingAbort : Device :=
  Device.reset.onPort .b fun P => { P with readySent := true, tx := .aborting [1] false }

theorem test_meets_SeekHandshake :
    Device.reset.Live ∧ (Device.reset.port .a).link = .seeking
      ∧ (Device.reset.port .a).readySent = false ∧ secondReady.Live
      ∧ (secondReady.port .a).link = .seeking ∧ (secondReady.port .a).readySent = true
      ∧ (secondReady.port .a).tx = .between ∧ owingAbort.Live
      ∧ (owingAbort.port .b).link = .seeking ∧ (owingAbort.port .b).readySent = true
      ∧ (owingAbort.port .b).tx = .aborting [1] false :=
  ⟨rfl, rfl, rfl, rfl, rfl, rfl, rfl, rfl, rfl, rfl, rfl⟩

theorem test_meets_LinkDropTakesThePortDown :
    busy.LiveOnline .b
      ∧ ((online.onPort .b fun P => { P with errorRun := 7 }).port .b).errorRun = 7 := ⟨⟨rfl, rfl⟩, rfl⟩

def disabled : Device := { online with enableB := false }.onPort .b fun P => { P with link := .offline }

theorem test_meets_EnableBSwitchesPortB :
    Device.reset.Live ∧ (Device.reset.port .b).link = .seeking ∧ (online.port .b).link = .online
      ∧ disabled.Live ∧ (disabled.port .b).link = .offline := ⟨rfl, rfl, rfl, rfl, rfl⟩

/-! ## Statements about reception -/

def holding (n : Nat) : Device := online.onPort .a fun P => { P with held := n }

theorem test_meets_CreditReceived :
    (holding 0).LiveOnline .a ∧ ((holding 0).port .a).held + 63 ≤ 63 ∧ (holding 62).LiveOnline .a
      ∧ ((holding 62).port .a).held + 1 ≤ 63 ∧ (holding 63).LiveOnline .a
      ∧ 63 < ((holding 63).port .a).held + 1 :=
  ⟨⟨rfl, rfl⟩, by decide, ⟨rfl, rfl⟩, by decide, ⟨rfl, rfl⟩, by decide⟩

theorem test_meets_SymbolsBetweenFrames :
    online.Live ∧ (online.port .a).link = .online ∧ (online.port .a).rx = none
      ∧ ((online.onPort .a fun P => { P with errorRun := 6 }).port .a).errorRun < 7
      ∧ (Device.reset.port .a).link ≠ .online ∧ disabled.Live
      ∧ (disabled.port .b).link = .offline := ⟨rfl, rfl, rfl, by decide, by decide, rfl, rfl⟩

theorem test_meets_BytePositionFilled :
    (receiving (atCount 0)).LiveOnline .a ∧ ((receiving (atCount 0)).port .a).rx = some (atCount 0)
      ∧ (atCount 0).count + 1 ≠ 8 ∧ (atCount 6).count + 1 ≠ 8 ∧ (atCount 8).count + 1 ≠ 8
      ∧ complete.header = some dataFrame.header ∧ complete.charge = some 1
      ∧ complete.damaged = false ∧ 8 ≤ complete.count ∧ complete.count + 1 ≠ 8 := by
  refine ⟨⟨rfl, rfl⟩, rfl, by decide, by decide, by decide, rfl, rfl, ?_, ?_, ?_⟩ <;> decide +kernel

/-- R29 (2): each check alone, at the ends of its range. -/
theorem test_header_checks :
    (composeHeader .mgmtReq false 0 63 0 0 0).wellFormed = true
      ∧ (composeHeader .mgmtReq false 0 64 0 0 0).wellFormed = false
      ∧ (composeHeader .data false 0 64 1024 62 0).wellFormed = true
      ∧ (composeHeader .data false 0 64 1024 63 0).wellFormed = false
      ∧ { dataHeader 2 5 with kind := 0 }.wellFormed = false
      ∧ { dataHeader 2 5 with kind := 7 }.wellFormed = false
      ∧ { dataHeader 2 5 with spareSeq := 1 }.wellFormed = false
      ∧ { dataHeader 2 5 with spareHops := 2 }.wellFormed = false := by decide

/-- Seven good bytes of the header `h`. -/
def sevenOf (h : Header) : RxFrame := { atCount 7 with headerBytes := (encodeHeader h).take 7 }

theorem test_meets_HeaderJudged :
    (receiving (sevenOf (dataHeader 2 5))).LiveOnline .a
      ∧ ((receiving (sevenOf (dataHeader 2 5))).port .a).rx = some (sevenOf (dataHeader 2 5))
      ∧ (sevenOf (dataHeader 2 5)).count = 7 ∧ (sevenOf (dataHeader 2 5)).damaged = false
      ∧ ((receiving (sevenOf (dataHeader 2 5))).port .a).errorRun < 7
      ∧ { atCount 7 with damaged := true }.damaged = true
      ∧ decodeHeader ((sevenOf (dataHeader 2 5)).headerBytes ++ [0]) = some (dataHeader 2 5)
      ∧ (dataHeader 2 5).wellFormed = true ∧ (dataHeader 1024 5).wellFormed = true
      ∧ (dataHeader 1025 5).wellFormed = false
      ∧ (dataHeader 1024 5).blocks ≤ 17 ∧ 16 < (dataHeader 1024 5).blocks :=
  ⟨⟨rfl, rfl⟩, rfl, rfl, rfl, by decide, rfl, by decide, by decide, by decide, by decide, by decide,
    by decide⟩

theorem test_meets_EofJudgesFrame :
    (receiving complete).LiveOnline .a ∧ ((receiving complete).port .a).rx = some complete
      ∧ complete.judged = .unjudged ∧ complete.damaged = false
      ∧ complete.lastFour = wordBytes (~~~ complete.check)
      ∧ complete.header = some (dataHeader 2 5) ∧ complete.charge = some 1
      ∧ complete.count = 12 + (dataHeader 2 5).length.toNat
      ∧ 8 ≤ (atCount 8).count ∧ (atCount 8).lastFour ≠ wordBytes (~~~ (atCount 8).check)
      ∧ (atCount 7).header = none ∧ (atCount 7).damaged = false ∧ ¬8 ≤ (atCount 7).count
      ∧ { atCount 8 with judged := .creditViolation }.judged = .creditViolation
      ∧ { atCount 8 with judged := .formatError }.judged = .formatError := by
  refine ⟨⟨rfl, rfl⟩, rfl, ?_⟩
  decide +kernel

theorem test_meets_FrameEndedEarly :
    (receiving complete).LiveOnline .a ∧ ((receiving complete).port .a).rx = some complete
      ∧ complete.judged = .unjudged
      ∧ { atCount 8 with judged := .formatError }.judged ≠ .unjudged
      ∧ { atCount 8 with judged := .creditViolation }.judged ≠ .unjudged :=
  ⟨⟨rfl, rfl⟩, rfl, by decide +kernel⟩

/-! ## Statements about transmission -/

/-- Slot B-EVEN with the part, its header offered. -/
def offered : Slot := { Slot.reset with owner := .waiting, offered := some ⟨false, 63, 5⟩ }

theorem test_meets_CreditAndSofSent :
    online.LiveOnline .a ∧ (online.port .a).tx = .between ∧ (online.port .a).unannounced ≠ 0
      ∧ busy.LiveOnline .b ∧ (busy.port .b).tx = .between
      ∧ (busy.arbiter .b).chosen = some { frame := .forward reference, sending := false }
      ∧ chosenContent .b (.forward reference) busy = some (forwardedFrame reference dataFrame)
      ∧ (busy.port .b).unannounced = 0
      ∧ chosenBlocks .b (.forward reference) busy ≤ (busy.port .b).held
      ∧ ((busy.onPort .b fun P => { P with held := 0 }).port .b).held
          < chosenBlocks .b (.forward reference) busy
      ∧ (busy.port (PortId.opposite .b)).residents.find? (fun r => r.key = reference.key) =
          some { key := 1, frame := dataFrame, blocks := 1, forwardUse := true, captureUse := true }
      ∧ ((busy.onSlot ⟨.b, .even⟩ fun _ => offered).slot ⟨.b, .even⟩).offered =
          some ⟨false, 63, 5⟩ :=
  ⟨⟨rfl, rfl⟩, rfl, by decide, ⟨rfl, rfl⟩, rfl, rfl, rfl, rfl, by decide, by decide, rfl, rfl⟩

def transmitting (t : Transmitter) : Device := online.onPort .a fun P => { P with tx := t }

theorem test_meets_BytesAndAbortSent :
    (transmitting (.sending [1] 0)).Live
      ∧ ((transmitting (.sending [1] 0)).port .a).tx = .sending (1 :: []) 0
      ∧ ((transmitting (.aborting [1] true)).port .a).tx = .aborting (1 :: []) true
      ∧ ((transmitting (.aborting [] false)).port .a).tx = .aborting [] false
      ∧ ((transmitting (.aborting [] true)).port .a).tx = .aborting [] true :=
  ⟨rfl, rfl, rfl, rfl, rfl⟩

/-- Port A about to send the EOF of `c`. -/
def ending (c : ChosenFrame) (pending : Bool) : Device :=
  { transmitting (.sending [] 14) with stats := { Stats.reset with alertPending := pending } }.onArbiter
    .a fun a => { a with chosen := some { frame := c, sending := true } }

theorem test_meets_EofEndsChosenFrame :
    (∀ c v, (ending c v).Live ∧ ((ending c v).port .a).tx = .sending [] 14
        ∧ ((ending c v).arbiter .a).chosen = some { frame := c, sending := true })
      ∧ (ending (.origin .reply dataFrame) false).agent.resetDue = false
      ∧ (ending (.origin .alert dataFrame) false).stats.alertPending = false
      ∧ (ending (.origin .alert dataFrame) true).stats.alertPending = true :=
  ⟨fun _ _ => ⟨rfl, rfl, rfl⟩, rfl, rfl, rfl⟩

theorem test_meets_RecordsReadBack :
    [Op.echo [7]].length ≤ 1 ∧ (∀ data, Op.echo data ∈ [Op.echo [7]] → data.length ≤ 255)
      ∧ (translating 0x0100 0x0A00 8).WellFormed ∧ (translating 0 0 16).WellFormed
      ∧ (∀ data, Op.echo (List.replicate 255 0) = .echo data → data.length ≤ 255) := by
  refine ⟨by decide, ?_, ⟨by decide, by decide⟩, ⟨by decide, by decide⟩, ?_⟩
  · intro data h
    simp at h
    simp [h]
  · rintro _ ⟨⟩
    exact List.length_replicate.le

/-! ## Statements about steering and capture -/

/-- The four actions of section 4.7, and FORWARD, as winners. -/
theorem test_meets_LookupTakesLowestIndex :
    overlapping.winner .a 0x0145 = some 0 ∧ overlapping.entries[0].action = .capture
      ∧ overlapping.winner .a 0x0120 = some 1 ∧ overlapping.entries[1].action = .forward
      ∧ overlapping.winner .b 0x0800 = some 2 ∧ overlapping.entries[2].action = .discard
      ∧ { overlapping with entries := overlapping.entries.set 1 Entry.reset }.winner .a 0x0120 = some 5
      ∧ overlapping.entries[5].action = .copy := by decide +kernel

theorem test_meets_TranslationKeepsPlace :
    (translating 0x0100 0x0A00 8).WellFormed
      ∧ (0x0100#16).toNat ≤ (0x01FF#16).toNat ∧ (0x01FF#16).toNat ≤ (0x0100#16).toNat + 2 ^ 8 - 1
      ∧ (translating 0x0100 0x0A00 8).translate = true
      ∧ (entryAt 0x0100 8 .both .forward).translate = false :=
  ⟨⟨by decide, by decide⟩, by decide, by decide, rfl, rfl⟩

theorem test_meets_DefaultDecides :
    busy.table.winner .a 0x0040 = none ∧ overlapping.winner .b 0x2000 = none
      ∧ overlapping.discardUp = true ∧ overlapping.discardDown = false := by decide +kernel

theorem test_meets_ForwardPartChecked :
    (dataHeader 2 0).hops = 0 ∧ (dataHeader 2 1).hops ≠ 0
      ∧ (Device.reset.port (PortId.opposite .a)).link ≠ .online
      ∧ (online.port (PortId.opposite .a)).link = .online := by decide

/-- Channel 0 as given. -/
def channelZero (c : Channel) : Device := online.onChannel 0 fun _ => c

def open0 : Channel := { Channel.reset with enabled := true, quota := 1 }

theorem test_meets_CaptureDecided :
    ((channelZero Channel.reset).channel 0).enabled = false
      ∧ ((channelZero { open0 with seqCheck := true, expect := true }).channel 0).seqCheck = true
      ∧ (dataHeader 2 5).seq
          ≠ ((channelZero { open0 with seqCheck := true, expect := true }).channel 0).expect
      ∧ ((channelZero { open0 with held := 1 }).channel 0).quota.toNat
          ≤ ((channelZero { open0 with held := 1 }).channel 0).held
      ∧ ((channelZero open0).channel 0).enabled = true
      ∧ ((channelZero open0).channel 0).held < ((channelZero open0).channel 0).quota.toNat
      ∧ (channelZero open0).capture.free = 0 :: (List.finRange 32).tail
      ∧ { (channelZero open0).capture with free := [] }.free = [] := by decide +kernel

def request (tag : Byte) : RequestCopy :=
  { tag, broadcast := true, length := 2, payload := [0x01, 0x09] }

def asked (tag : Byte) : Agent :=
  { Agent.reset with queue := [request tag], lastTag := 1, replay := some ⟨5, 5, 1, [0, 0]⟩ }

def requestHeader (target : Half) : Header := composeHeader .mgmtReq false 5 target 2 0 1

theorem test_meets_FramesDispatchedByKind :
    (dataHeader 2 5).kind = 1 ∧ (requestHeader 5).kind = 2
      ∧ Header.target (requestHeader 5) = busy.agent.node ∧ busy.agent.node ≠ 0
      ∧ Header.target (requestHeader 6) ≠ busy.agent.node ∧ Header.target (requestHeader 6) ≠ 63
      ∧ Header.target (requestHeader 63) = 63 ∧ Device.reset.agent.node = 0
      ∧ (composeHeader .enum false 5 0 2 0 0).kind = 4 ∧ (composeHeader .mgmtRsp false 5 0 2 0 0).kind = 3
      ∧ (composeHeader .enumRet false 5 0 2 0 0).kind = 5
      ∧ (composeHeader .alert false 5 0 24 0 0).kind = 6
      ∧ (asked 1).queue.length < 2 ∧ 2 ≤ [request 1, request 2].length := by decide +kernel

def returnEntry : OriginEntry := { body := .enumRet dataFrame false, chosen := false }

theorem test_meets_EnumerationTakesAndPasses :
    (∀ mode next : Byte, [1, 64] = [mode, next] →
        ¬((mode = 1 ∨ mode = 2) ∧ 1 ≤ next.toNat ∧ next.toNat ≤ 63))
      ∧ (1 ≤ (62#8).toNat ∧ (62#8).toNat ≤ 62) ∧ busy.agent.node ≠ 0 ∧ Device.reset.agent.node = 0
      ∧ (busy.port .b).link = .online ∧ (Device.reset.port .b).link ≠ .online
      ∧ Device.reset.hasOrigin .enumRet = false
      ∧ { Device.reset with origin := [returnEntry] }.hasOrigin .enumRet = true
      ∧ (dataHeader 2 0).hops = 0 ∧ (dataHeader 2 1).hops ≠ 0 := by
  refine ⟨?_, by decide +kernel⟩
  rintro mode next h ⟨-, -, h3⟩
  simp at h
  simp [← h.2] at h3

def replyEntry : OriginEntry := { body := .reply dataFrame, chosen := false }

def alertEntry : OriginEntry := { body := .alert, chosen := false }

/-- Port B ONLINE with a reference queued, the given slot B-EVEN and share. -/
def candidates (s : Slot) (share : Nat) : Device :=
  { online with egress := ⟨Egress.reset, { queue := [reference], share, chosen := none }⟩ }.onSlot
    ⟨.b, .even⟩ fun _ => s

/-- The record FILLED, at a FAULT_READ with clear. -/
def filled : State :=
  { atOperation (.faultRead true) with dev := { (atOperation (.faultRead true)).dev with
      stats := { Stats.reset with record := some (portFault .crc .a none) } } }

theorem test_meets_ArbiterChoosesByShare :
    (Device.reset.port .a).link ≠ .online ∧ (busy.arbiter .b).chosen ≠ none
      ∧ (online.port .a).link = .online ∧ (online.arbiter .a).chosen = none
      ∧ { online with origin := [replyEntry] }.origin = replyEntry :: []
      ∧ replyEntry.body = .reply dataFrame ∧ returnEntry.body = .enumRet dataFrame false
      ∧ alertEntry.body = .alert ∧ online.stats.record = none ∧ filled.dev.stats.record ≠ none
      ∧ (filled.dev.port .a).link = .online ∧ (filled.dev.arbiter .a).chosen = none
      ∧ online.origin = []
      ∧ offeredSlot (candidates Slot.reset 0) .b = none ∧ offeredSlot (candidates offered 3) .b = some .even
      ∧ ((candidates offered 3).arbiter .b).share < (candidates offered 3).egressCtl.injectShare.toNat
      ∧ (candidates offered 4).egressCtl.injectShare.toNat ≤ ((candidates offered 4).arbiter .b).share
      ∧ ((candidates offered 3).arbiter .b).queue = reference :: []
      ∧ (online.arbiter .b).queue = [] := by decide +kernel

theorem test_meets_CopyCompletionPostsNotice :
    busy.Live ∧ busy.capture.work = item :: [] ∧ Memory.wf busy.capture.mem :=
  ⟨rfl, rfl, by decide⟩

/-- One notice waits; buffer 31 is with the local side. -/
def delivered : Device :=
  { online with capture := { Capture.reset with
      buffers := Capture.reset.buffers.set 0 { state := .posted, channel := 0 }
        |>.set 31 { state := .taken, channel := 7 }
      delivery := [noticeOf item] } }

theorem test_meets_NoticeTaken :
    delivered.WordDue .read 0x0008 ∧ delivered.capture.delivery = noticeOf item :: []
      ∧ Device.reset.WordDue .read 0x0008 ∧ Device.reset.capture.delivery = [] :=
  ⟨⟨rfl, .inl ⟨rfl, rfl⟩⟩, rfl, dueAlone _ _, rfl⟩

theorem test_meets_BufferReturned :
    delivered.WordDue .write 0x0010 ∧ (31#32).toNat = (31 : Fin 32).val
      ∧ (delivered.buffer 31).state = .taken ∧ 32 ≤ (32#32).toNat ∧ (0#32).toNat = (0 : Fin 32).val
      ∧ (delivered.buffer 0).state ≠ .taken :=
  ⟨⟨rfl, .inl ⟨rfl, rfl⟩⟩, by decide +kernel⟩

/-- Port A's alerts on, the record EMPTY. -/
def alerting : Device := { online with stats := { Stats.reset with alertEnable := true } }

theorem test_meets_CountsAndReportsTaken :
    Stats.reset.mask.getLsbD FaultKind.hopExpired.bit = false
      ∧ Stats.reset.mask.getLsbD FaultKind.crc.bit = true ∧ online.stats.record = none
      ∧ online.stats.alertEnable = false ∧ alerting.stats.record = none
      ∧ alerting.stats.alertEnable = true ∧ alerting.hasOrigin .alert = false
      ∧ { alerting with origin := [alertEntry] }.hasOrigin .alert = true
      ∧ (alerting.report (portFault .crc .a none)).stats.record ≠ none := by decide +kernel

/-! ## Statements about management operations -/

theorem test_meets_ReadWordReturnsTheWord :
    (atOperation (.readWord 0x1F)).dev.AtOperation (atOp (.readWord 0x1F)) (.readWord 0x1F)
      ∧ controlWord 0x1F = some (.channelState 7) ∧ controlWord 0x09 = some .poolState
      ∧ controlWord 0x0A = none ∧ controlWord 0x0F = none ∧ controlWord 0x20 = none
      ∧ onlinePort.rx = none ∧ (charging.port .a).rx = some complete ∧ complete.charge = some 1
      ∧ (atCount 0).charge = none :=
  ⟨due _, by decide, by decide, by decide, by decide, by decide, rfl, rfl, rfl, rfl⟩

theorem test_meets_ControlWordsWritten :
    (atOperation (.writeWord 0x10 0x04002001)).dev.AtOperation (atOp (.writeWord 0x10 0x04002001))
        (.writeWord 0x10 0x04002001)
      ∧ (atOperation (.modifyWord 0x06 0 0xF)).dev.AtOperation (atOp (.modifyWord 0x06 0 0xF))
        (.modifyWord 0x06 0 0xF)
      ∧ controlWord 0x10 = some (.channelCfg 0) ∧ fieldsLegal (.channelCfg 0) 0x04002001 = true
      ∧ fieldsLegal (.channelCfg 0) 0x04002101 = false ∧ fieldsLegal (.channelCfg 0) 0x04100801 = false
      ∧ fieldsLegal .egressCtl 0x00003F00 = false ∧ fieldsLegal .egressCtl 0x00003F01 = true
      ∧ ControlWord.ident.writable = false ∧ controlWord 0x20 = none ∧ Device.reset.Live :=
  ⟨due _, due _, by decide, by decide, by decide, by decide, by decide, by decide, by decide, by decide,
    rfl⟩

def form : EntryForm :=
  { valid := true, translate := false, applies := 3, action := 3, order := 16, base := 0, newBase := 1
    channel := 7 }

theorem test_meets_TableOperationsRun :
    (∀ o, (atOperation o).dev.AtOperation (atOp o) o) ∧ 64 ≤ (64#8).toNat
      ∧ (63#8).toNat = (63 : Fin 64).val
      ∧ (entryOf form).isSome = true ∧ entryOf { form with order := 17 } = none
      ∧ entryOf { form with channel := 8 } = none ∧ entryOf { form with action := 4 } = none
      ∧ entryOf { form with applies := 0 } = none ∧ entryOf { form with translate := true } = none
      ∧ (1 ≤ (64#8).toNat ∧ (64#8).toNat ≤ 64 ∧ (0#8).toNat + (64#8).toNat ≤ 64)
      ∧ ¬((1#8).toNat + (64#8).toNat ≤ 64) ∧ ¬1 ≤ (0#8).toNat :=
  ⟨due, by decide +kernel⟩

theorem test_meets_CounterRead :
    (atOperation (.counterRead 81 true)).dev.AtOperation (atOp (.counterRead 81 true))
        (.counterRead 81 true)
      ∧ (81#8).toNat = (81 : Fin 82).val ∧ 82 ≤ (82#8).toNat := ⟨due _, by decide⟩

theorem test_meets_FaultRead :
    (atOperation (.faultRead true)).dev.AtOperation (atOp (.faultRead true)) (.faultRead true)
      ∧ (atOperation (.faultRead true)).dev.stats.record = none
      ∧ filled.dev.AtOperation (atOp (.faultRead true)) (.faultRead true)
      ∧ filled.dev.stats.record ≠ none := ⟨due _, rfl, ⟨rfl, rfl, rfl, rfl, rfl⟩, by decide⟩

theorem test_meets_SeqResetAndSetNode :
    (∀ o, (atOperation o).dev.AtOperation (atOp o) o) ∧ 8 ≤ (8#8).toNat
      ∧ (7#8).toNat = (7 : Fin 8).val ∧ 62 < (63#8).toNat ∧ (1 ≤ (62#8).toNat ∧ (62#8).toNat ≤ 62) :=
  ⟨due, by decide⟩

theorem test_meets_EchoAndStationReset :
    (∀ o, (atOperation o).dev.AtOperation (atOp o) o)
      ∧ (List.replicate 56 (0 : Byte)).length ≤ 56 ∧ 56 < (List.replicate 57 (0 : Byte)).length :=
  ⟨due, by decide⟩

/-- A batch at its end, for the request of tag 1. -/
def batchDone : State :=
  { atOperation .stationReset with dev := { (atOperation .stationReset).dev with
      agent := { (atOperation .stationReset).dev.agent with
        batch := some { waiting := [], results := [{ code := 0x0C, status := .ok, data := [] }]
                        failed := false } } } }

theorem test_meets_BatchEndAnswers :
    batchDone.dev.Live
      ∧ batchDone.dev.agent.batch =
          some { waiting := [], results := [{ code := 0x0C, status := .ok, data := [] }], failed := false }
      ∧ batchDone.dev.agent.queue = { tag := 1, broadcast := false, length := 2, payload := [] } :: []
      ∧ batchDone.dev.agent.resetDue = false ∧ Op.LaidOut .stationReset [0x0C] :=
  ⟨rfl, rfl, rfl, rfl, rfl⟩

/-- Port A sends a REPLY while a station reset is due. -/
def resetting : Device :=
  let d := ending (.origin .reply dataFrame) false
  { d with agent := { d.agent with resetDue := true } }

theorem test_meets_StationResetApplied :
    busy.agent.resetDue = false ∧ resetting.Live ∧ resetting.agent.resetDue = true
      ∧ (resetting.arbiter .a).chosen = some { frame := .origin .reply dataFrame, sending := true } :=
  ⟨rfl, rfl, rfl, rfl⟩

theorem test_meets_RequestStarted :
    (asked 1).batch = none ∧ Device.reset.hasOrigin .reply = false
      ∧ (asked 1).queue = request 1 :: [] ∧ (request 1).tag ≠ 0 ∧ (request 1).tag = (asked 1).lastTag
      ∧ (asked 1).replay = some ⟨5, 5, 1, [0, 0]⟩ ∧ (request 2).tag ≠ (asked 2).lastTag
      ∧ parseRequest true (request 2).payload = some [.readWord 0x09]
      ∧ (asked 1).resetDue = false ∧ parseRequest true [0x0A, 0x05] = none
      ∧ parseRequest false [] = none ∧ parseRequest false [0x0C, 0x0C] = none
      ∧ (parseRequest false (List.replicate 32 0x01)).isSome = true
      ∧ parseRequest false (List.replicate 34 0x01) = none := by decide +kernel

/-! ## Statements about the local access port -/

theorem test_meets_TransactionsFramedAndRefused :
    (lrstLow Device.reset).lapHeld = true ∧ (fullReset true busy).lapHeld = true
      ∧ Device.reset.lapHeld = false ∧ Device.reset.pins.lcsLow = false
      ∧ (inTransaction .opened).dev.lapHeld = false ∧ (inTransaction .opened).dev.lap.context = .opened
      ∧ (inTransaction .idle).dev.lapHeld = false ∧ (inTransaction .idle).dev.lap.context = .idle
      ∧ (inTransaction .idle).dev.pins.lcsLow = true ∧ Device.reset.lap.context = .idle
      ∧ (3#8 ≠ 0x01 ∧ 3#8 ≠ 0x02) ∧ (inTransaction .ignored).dev.lapHeld = false
      ∧ (inTransaction .ignored).dev.lap.context = .ignored
      ∧ Instr.WellFormed (.lapReadOnlyWrite 0x0028 7) ∧ Instr.WellFormed (.lapReadOnlyWrite 0xFFFF 7)
      ∧ Device.reset.WordDue .write 0x0028 :=
  ⟨rfl, rfl, rfl, rfl, rfl, rfl, rfl, rfl, rfl, rfl, by decide, rfl, rfl, by decide, by decide,
    dueAlone _ _⟩

theorem test_meets_LocalCausesAndEnables :
    Device.reset.WordDue .write 0x0002 ∧ (inTransaction .opened).dev.WordDue .write 0x0003
      ∧ (inTransaction (.words .write 0x0003 0)).dev.WordDue .write 0x0003 :=
  ⟨dueAlone _ _, dueOpened _ _, dueNext _ _⟩

theorem test_meets_BufferWindow :
    Device.reset.WordDue .write 0x0018 ∧ (31#32).toNat = (31 : Fin 32).val ∧ 32 ≤ (32#32).toNat
      ∧ (inTransaction (.words .read 0x0100 0)).dev.WordDue .read (bufDataAddress 0)
      ∧ { delivered with lap := { Lap.reset with bufSelect := 31 } }.WordDue .read (bufDataAddress 255)
      ∧ (delivered.buffer 31).state = .taken ∧ (delivered.buffer 0).state ≠ .taken :=
  ⟨dueAlone _ _, by decide, by decide, dueNext _ _, ⟨rfl, .inl ⟨rfl, rfl⟩⟩, by decide +kernel⟩

/-- Slot A-ODD with the part. -/
def handedOver : Device := Device.reset.onSlot ⟨.a, .odd⟩ fun s => { s with owner := .waiting }

theorem test_meets_SlotWindow :
    Device.reset.WordDue .write 0x0019 ∧ (3#32).toNat = slotNumber ⟨.b, .odd⟩ ∧ 4 ≤ (4#32).toNat
      ∧ Device.reset.WordDue .write (slotHeaderAddress ⟨.b, .odd⟩ true)
      ∧ (Device.reset.slot ⟨.b, .odd⟩).owner = .free ∧ (handedOver.slot ⟨.a, .odd⟩).owner ≠ .free
      ∧ Device.reset.WordDue .write (slotDataAddress 255) ∧ Memory.wf Device.reset.launch.mem :=
  ⟨dueAlone _ _, by decide, by decide, dueAlone _ _, by decide, by decide, dueAlone _ _, by decide⟩

/-- The two NEXT slots handed over and not yet dealt with. -/
def waitingNext (d : Device) : Device :=
  (d.onSlot ⟨.a, .even⟩ fun s => { s with owner := .waiting }).onSlot ⟨.b, .even⟩ fun s =>
    { s with owner := .waiting }

def longSlot (n : Half) : Slot := { Slot.reset with length := n }

theorem test_meets_HandoverOffersOrRefuses :
    (∀ c a, online.WordDue c a) ∧ 4 ≤ (4#32).toNat ∧ (0#32).toNat = slotNumber ⟨.a, .even⟩
      ∧ (handedOver.slot ⟨.a, .odd⟩).owner ≠ .free ∧ 1024 < (longSlot 1025).length.toNat
      ∧ (longSlot 1024).length.toNat ≤ 1024 ∧ (online.slot ⟨.a, .even⟩).owner = .free
      ∧ online.nextParity .a = .even ∧ (online.port .a).link = .online ∧ online.agent.node = 0
      ∧ busy.agent.node ≠ 0 ∧ busy.nextParity .a = .even ∧ (busy.slot ⟨.a, .even⟩).owner = .free
      ∧ (busy.port .a).link = .online ∧ (Device.reset.port .a).link ≠ .online
      ∧ (online.slot ⟨.a, .odd⟩).owner = .free ∧ (online.slot ⟨.a, .even⟩).owner ≠ .waiting
      ∧ ∀ d ∈ [Device.reset, online, busy], ∀ p ∈ [PortId.a, .b],
          ((waitingNext d).slot ⟨p, (waitingNext d).nextParity p⟩).owner = .waiting
            ∧ ((waitingNext d).slot ⟨p, (waitingNext d).nextParity p⟩).offered = none := by
  exact ⟨fun _ _ => ⟨rfl, .inl ⟨rfl, rfl⟩⟩, by decide +kernel⟩

theorem test_meets_RecallTakesBack :
    (∀ c a, handedOver.WordDue c a) ∧ 4 ≤ (4#32).toNat ∧ (1#32).toNat = slotNumber ⟨.a, .odd⟩
      ∧ (handedOver.slot ⟨.a, .odd⟩).owner = .waiting ∧ (handedOver.slot ⟨.a, .even⟩).owner ≠ .waiting :=
  ⟨fun _ _ => ⟨rfl, .inl ⟨rfl, rfl⟩⟩, by decide +kernel⟩

/-! ## Statements about every step: a part that meets the invariant, and a next step -/

theorem busy_steps : ∃ t, step (withOne busy .copyCompletion) = .next t := ⟨_, rfl⟩

theorem test_meets_StepKeepsCreditAccounts : busy.AccountsKept := by
  intro p
  cases p
  · exact ⟨by decide, by intro f h; cases h⟩
  · exact ⟨by decide, by intro f h; cases h⟩

theorem test_meets_StepKeepsCountsAndLinks : busy.CountsInRange ∧ busy.LinksLegal := by
  refine ⟨fun p => ?_, by decide, by decide⟩
  cases p <;> decide

theorem test_meets_StepKeepsDownPortsQuiet : busy.DownPortsQuiet ∧ busy.TransmittersFollow := by
  refine ⟨fun p h => ?_, fun p => ?_⟩
  · cases p <;> cases h
  · cases p <;> rfl

theorem test_meets_StepKeepsResidentsUsed :
    charging.AccountsKept ∧ charging.ReceptionsCharged ∧ charging.ResidentsUsed
      ∧ (charging.port .a).rx = some complete ∧ complete.charge = some 1 := by
  refine ⟨fun p => ?_, fun p f h => ?_, fun p => ?_, rfl, rfl⟩
  · cases p
    · refine ⟨rfl, ?_⟩
      rintro _ ⟨⟩
      decide
    · refine ⟨rfl, ?_⟩
      rintro _ ⟨⟩
  · cases p <;> cases h
    rintro n hn
    cases hn
    exact ⟨_, rfl, by decide⟩
  · cases p
    · have hr : (charging.port .a).residents = [⟨1, dataFrame, 1, true, true⟩] := rfl
      have hf : charging.referenceKeys .a = [1] := rfl
      have hw : charging.workKeys .a = [1] := by decide
      rw [hr, hf, hw]
      refine ⟨by decide, by decide, by decide, fun k => ?_, by decide, fun k => ?_⟩ <;>
        simp only [List.mem_singleton, exists_eq_left, and_true] <;> exact eq_comm
    · have hr : (charging.port .b).residents = [] := rfl
      have hf : charging.referenceKeys .b = [] := rfl
      have hw : charging.workKeys .b = [] := by decide
      rw [hr, hf, hw]
      exact ⟨by decide, by decide, by decide, by simp, by decide, by simp⟩

theorem test_meets_StepKeepsConfigurationLegal :
    { busy with table := overlapping }.TableWellFormed
      ∧ { busy with table := overlapping }.ControlInRange := by
  unfold Device.TableWellFormed Entry.WellFormed Device.ControlInRange Channel.Configured
  decide +kernel

theorem test_meets_StepKeepsOriginList :
    { busy with origin := [replyEntry] }.OriginKept
      ∧ { busy with origin := [replyEntry], agent := { busy.agent with resetDue := true } }.OriginKept := by
  unfold Device.OriginKept Device.OriginOrdered Device.AgentInTurn Device.AlertFollowed
  decide +kernel

theorem test_meets_StepKeepsNodeAndReplay :
    (asked 2).NodeLegal ∧ (asked 2).ReplayTagged ∧ busy.agent.NodeLegal ∧ busy.agent.ReplayTagged
      ∧ busy.agent.node ≠ 0
      ∧ ∀ high, (withOne busy .copyCompletion).pending.head? ≠ some (.fullReset high) :=
  ⟨Nat.le_of_ble_eq_true rfl, ⟨by decide, rfl⟩, Nat.le_of_ble_eq_true rfl, rfl, by decide, by decide⟩

theorem test_meets_StepKeepsPoolInCircuit : busy.capture.PoolInCircuit := by
  unfold Capture.PoolInCircuit
  decide +kernel

theorem test_meets_StepKeepsMemoriesAndNotices : busy.MemoriesCanonical ∧ busy.NoticesAgree := by
  refine ⟨⟨by decide, by decide⟩, ?_, ?_, ?_⟩
  · intro w h
    obtain rfl : w = item := by simpa [busy] using h
    exact ⟨by decide, by decide⟩
  · intro n h
    cases h
  · intro n h
    cases h

/-- Slot B-EVEN offered under node number 5. -/
def offering : Device := busy.onSlot ⟨.b, .even⟩ fun _ => offered

theorem test_meets_StepKeepsLaunchInTurn : offering.LaunchInTurn := by
  intro p
  cases p <;>
    refine ⟨fun k => ?_, fun k => ?_, ?_, fun k => ?_, fun k => ?_, fun k o h => ?_⟩ <;>
    first
      | (cases k <;> decide)
      | decide
      | (cases k <;> cases h <;> decide)

theorem test_meets_CountersAndRecordHeld :
    (∀ high, (withOne busy .copyCompletion).pending.head? ≠ some (.fullReset high))
      ∧ (withOne busy .copyCompletion).pending.head? ≠ some .stationResetApplied
      ∧ (∀ id, (withOne busy .copyCompletion).pending.head? ≠ some (.counterRead id true))
      ∧ (withOne filled.dev .copyCompletion).pending.head? ≠ some (.faultRead true)
      ∧ filled.dev.stats.record ≠ none
      ∧ busy.stats.OverflowAgrees ∧ busy.stats.record = none := by
  refine ⟨by decide, by decide, fun id => by simp [withOne], by decide, by decide, fun _ => rfl, rfl⟩

end Sys2Proof.Tests
end

/-! SUPPORT. Credit received on a line port (R25): how a symbol reaches an ONLINE port of a live part,
the two outcomes of a CREDIT, and the statement of the family. -/

namespace Sys2Proof.Machine

/-! ## A symbol at an ONLINE port of a live part -/

/-- R19: the symbol's meaning acts on the part with the error run back at 0. -/
theorem onlineSymbol_of_online {p : PortId} {d : Device} (f : Device → Device)
    (h : (d.port p).link = .online) : onlineSymbol p f d = f (decodedSymbol p d) := by
  simp [onlineSymbol, Port.online, h]

theorem onDevice_onlineSymbol {s : State} {p : PortId} (f : Device → Device)
    (h : s.dev.LiveOnline p) :
    onDevice (unlessHeld (onlineSymbol p f)) s = s.nextWith (f (decodedSymbol p s.dev)) := by
  obtain ⟨hlive, honline⟩ := h
  rw [onDevice, unlessHeld_free hlive, onlineSymbol_of_online f honline, State.nextWith]

@[simp] theorem decodedSymbol_held (p : PortId) (d : Device) :
    ((decodedSymbol p d).port p).held = (d.port p).held := by
  rw [decodedSymbol, Device.port_onPort_self]

/-- An update of the port after the error run went back to 0 is one update of the port. -/
theorem decodedSymbol_onPort (p : PortId) (f : Port → Port) (d : Device) :
    (decodedSymbol p d).onPort p f = d.onPort p fun P => f { P with errorRun := 0 } :=
  Device.onPort_onPort p _ f d

/-! ## CREDIT -/

/-- R25: the sum fits the 6 bits of held. -/
theorem receiveCredit_of_le {p : PortId} {n : Nat} {d : Device} (h : (d.port p).held + n ≤ 63) :
    receiveCredit p n d = d.onPort p fun P => { P with held := P.held + n } := by
  rw [receiveCredit, if_neg (Nat.not_lt.mpr h)]

/-- R25: held stops at 63, and the overrun is counted and reported under its own name. -/
theorem receiveCredit_of_lt {p : PortId} {n : Nat} {d : Device} (h : 63 < (d.port p).held + n) :
    receiveCredit p n d =
      errorEvent .creditOverrun .creditOverrun p none (d.onPort p fun P => { P with held := 63 }) := by
  rw [receiveCredit, if_pos h]

/-- An error event whose frame has no known header counts, reports the port alone, and lets the arbiters
choose. -/
theorem errorEvent_no_header (c : PortCounter) (k : FaultKind) (p : PortId) (d : Device) :
    errorEvent c k p none d = arbitrate ((d.count (.port p c)).report
      { kind := k, port := some p, frame := none, channel := none, buffer := none }) := rfl

/-- A CREDIT with a count of 1..63 at an ONLINE port is no symbol error (R15; log 24), whether or not a
frame is being received. -/
theorem exec_rxCredit_of_online {s : State} {p : PortId} {n : Nat} (h : s.dev.LiveOnline p)
    (hlow : 1 ≤ n) (hhigh : n ≤ 63) :
    exec (.rxCredit p n) s = s.nextWith (receiveCredit p n (decodedSymbol p s.dev)) := by
  have harm : exec (.rxCredit p n) s = execRxCredit p n s := rfl
  rw [harm, execRxCredit, if_pos ⟨hlow, hhigh⟩, onDevice_onlineSymbol _ h]

/-- Settles O10, by the two outcomes of the sum. -/
theorem creditReceived : Obligations.CreditReceived := by
  intro s p n honline hlow hhigh
  rw [exec_rxCredit_of_online honline hlow hhigh]
  refine ⟨fun hfits => ?_, fun hover => ?_⟩
  · have hsum : ((decodedSymbol p s.dev).port p).held + n ≤ 63 := by simpa using hfits
    rw [receiveCredit_of_le hsum, decodedSymbol_onPort]
  · have hsum : 63 < ((decodedSymbol p s.dev).port p).held + n := by simpa using hover
    rw [receiveCredit_of_lt hsum, decodedSymbol_onPort, errorEvent_no_header]

end Sys2Proof.Machine

/-! SUPPORT. The steering table (R39 to R56): who wins a lookup, what the parts of a DATA frame leave
unchanged, the operations on the table, and the statements of the family. -/

namespace Sys2Proof.Machine

/-! ## The lookup (R43, R44) -/

theorem Applies.covers_a (x : Applies) : x.covers .a = true ↔ x = .both ∨ x = .down := by
  cases x <;> decide

theorem Applies.covers_b (x : Applies) : x.covers .b = true ↔ x = .both ∨ x = .up := by
  cases x <;> decide

theorem Entry.hit_iff (e : Entry) (p : PortId) (label : Half) : e.hit p label = true ↔
    e.valid = true
      ∧ (e.base.toNat ≤ label.toNat ∧ label.toNat ≤ e.base.toNat + 2 ^ e.order.val - 1)
      ∧ e.applies.covers p = true := by
  simp only [Entry.hit, Bool.and_eq_true, decide_eq_true_eq, and_assoc]

/-- The lookup is the library's search for the least index. -/
theorem Table.winner_eq_find (t : Table) (p : PortId) (label : Half) :
    t.winner p label = Fin.find? fun i => t.entries[i].hit p label :=
  Fin.find?_eq_find?_finRange.symm

theorem Table.winner_eq_some_iff (t : Table) (p : PortId) (label : Half) (i : Fin 64) :
    t.winner p label = some i ↔
      t.entries[i].hit p label = true ∧ ∀ j < i, t.entries[j].hit p label = false := by
  rw [Table.winner_eq_find, Fin.find?_eq_some_iff]

theorem Table.winner_eq_none_iff (t : Table) (p : PortId) (label : Half) :
    t.winner p label = none ↔ ∀ i : Fin 64, t.entries[i].hit p label = false := by
  rw [Table.winner_eq_find, Fin.find?_eq_none_iff]

/-- R44: HITS stays at 4294967295. -/
theorem saturatingSucc_eq_ite (w : Word) :
    saturatingSucc w = if w.toNat = 4294967295 then w else w + 1 := by
  have htop : w = BitVec.allOnes 32 ↔ w.toNat = 4294967295 :=
    ⟨fun h => by rw [h]; rfl, fun h => BitVec.eq_of_toNat_eq h⟩
  simp only [saturatingSucc, htop]

/-! ## What the parts of a frame leave unchanged -/

@[simp] theorem Device.portError_table (c : PortCounter) (k : FaultKind) (p : PortId)
    (h : Option Header) (d : Device) : (d.portError c k p h).table = d.table := by
  rw [Device.portError, Device.report_table, Device.countPort, Device.count_table]

@[simp] theorem Device.portError_capture (c : PortCounter) (k : FaultKind) (p : PortId)
    (h : Option Header) (d : Device) : (d.portError c k p h).capture = d.capture := by
  rw [Device.portError, Device.report_capture, Device.countPort, Device.count_capture]

@[simp] theorem makeReference_table (p : PortId) (key : Nat) (h : Header) (label : Half)
    (next : Option Byte) (d : Device) : (makeReference p key h label next d).table = d.table := by
  rw [makeReference, Device.onArbiter_table, Device.onPort_table]

@[simp] theorem makeReference_capture (p : PortId) (key : Nat) (h : Header) (label : Half)
    (next : Option Byte) (d : Device) :
    (makeReference p key h label next d).capture = d.capture := by
  rw [makeReference, Device.onArbiter_capture, Device.onPort_capture]

/-- R62: a forward part ends in the one check that fails, or in a reference. -/
theorem forwardPart_cases (p : PortId) (key : Nat) (h : Header) (label : Half) (d : Device) :
    forwardPart p key h label d = d.portError .hopExpired .hopExpired p (some h)
      ∨ forwardPart p key h label d = d.portError .egressDropped .egressDown p.opposite (some h)
      ∨ forwardPart p key h label d = makeReference p key h label none d := by
  unfold forwardPart
  split
  · exact .inl rfl
  · split
    · exact .inr (.inl rfl)
    · exact .inr (.inr rfl)

@[simp] theorem forwardPart_table (p : PortId) (key : Nat) (h : Header) (label : Half) (d : Device) :
    (forwardPart p key h label d).table = d.table := by
  rcases forwardPart_cases p key h label d with e | e | e <;> simp [e]

@[simp] theorem forwardPart_capture (p : PortId) (key : Nat) (h : Header) (label : Half)
    (d : Device) : (forwardPart p key h label d).capture = d.capture := by
  rcases forwardPart_cases p key h label d with e | e | e <;> simp [e]

@[simp] theorem captureNoBuffer_table (p : PortId) (h : Header) (ch : Fin 8) (d : Device) :
    (captureNoBuffer p h ch d).table = d.table := by
  simp [captureNoBuffer, Device.countChannel]

@[simp] theorem captureAccept_table (p : PortId) (key : Nat) (h : Header) (entry : Fin 64)
    (ch : Fin 8) (b : Fin 32) (rest : List (Fin 32)) (d : Device) :
    (captureAccept p key h entry ch b rest d).table = d.table := by
  simp [captureAccept]

/-- R81: a capture decision ends in a counted drop, in NO_BUFFER, or in a work item. -/
theorem capturePart_cases (p : PortId) (key : Nat) (h : Header) (entry : Fin 64) (ch : Fin 8)
    (d : Device) :
    (∃ c, capturePart p key h entry ch d = d.count (.channel ch c))
      ∨ capturePart p key h entry ch d = captureNoBuffer p h ch d
      ∨ ∃ b rest, capturePart p key h entry ch d = captureAccept p key h entry ch b rest d := by
  unfold capturePart
  dsimp only
  split
  · exact .inl ⟨_, rfl⟩
  · split
    · exact .inl ⟨_, rfl⟩
    · split
      · exact .inl ⟨_, rfl⟩
      · split
        · exact .inr (.inl rfl)
        · exact .inr (.inr ⟨_, _, rfl⟩)

@[simp] theorem capturePart_table (p : PortId) (key : Nat) (h : Header) (entry : Fin 64) (ch : Fin 8)
    (d : Device) : (capturePart p key h entry ch d).table = d.table := by
  rcases capturePart_cases p key h entry ch d with ⟨_, e⟩ | e | ⟨_, _, e⟩ <;> simp [e]

/-! ## The outcome of a lookup (R45, R47) -/

theorem steer_of_winner {p : PortId} {key : Nat} {h : Header} {d : Device} {i : Fin 64}
    (hw : d.table.winner p h.label = some i) :
    steer p key h d = actOn p key h i d.table.entries[i]
      (d.onEntry i fun e => { e with hits := saturatingSucc e.hits }) := by
  rw [steer, hw]

theorem steer_of_no_winner {p : PortId} {key : Nat} {h : Header} {d : Device}
    (hw : d.table.winner p h.label = none) : steer p key h d = defaultAction p key h d := by
  rw [steer, hw]

theorem actOn_forward {p : PortId} {key : Nat} {h : Header} {i : Fin 64} {e : Entry}
    (ha : e.action = .forward) (d : Device) :
    actOn p key h i e d = forwardPart p key h (e.forwardLabel h.label) d := by
  rw [actOn, ha]

theorem actOn_capture {p : PortId} {key : Nat} {h : Header} {i : Fin 64} {e : Entry}
    (ha : e.action = .capture) (d : Device) :
    actOn p key h i e d = capturePart p key h i e.channel d := by
  rw [actOn, ha]

/-- R57: COPY is both parts, the arbiters choosing after each (log 5). -/
theorem actOn_copy {p : PortId} {key : Nat} {h : Header} {i : Fin 64} {e : Entry}
    (ha : e.action = .copy) (d : Device) :
    actOn p key h i e d =
      eitherOrder (fun d => arbitrate (forwardPart p key h (e.forwardLabel h.label) d))
        (fun d => arbitrate (capturePart p key h i e.channel d)) d := by
  rw [actOn, ha]

theorem actOn_discard {p : PortId} {key : Nat} {h : Header} {i : Fin 64} {e : Entry}
    (ha : e.action = .discard) (d : Device) :
    actOn p key h i e d = d.count (.port p .tableDiscards) := by
  rw [actOn, ha, Device.countPort]

/-- R45: no ACTION touches the table. -/
@[simp] theorem actOn_table (p : PortId) (key : Nat) (h : Header) (i : Fin 64) (e : Entry)
    (d : Device) : (actOn p key h i e d).table = d.table := by
  cases ha : e.action with
  | forward => rw [actOn_forward ha, forwardPart_table]
  | capture => rw [actOn_capture ha, capturePart_table]
  | copy =>
    rw [actOn_copy ha]
    refine eitherOrder_induct (P := fun x => x.table = d.table) rfl (fun x hx => ?_) fun x hx => ?_
    · rw [arbitrate_table, forwardPart_table, hx]
    · rw [arbitrate_table, capturePart_table, hx]
  | discard => rw [actOn_discard ha, Device.count_table]

/-- R47: the default DISCARD. -/
theorem defaultAction_of_discards {p : PortId} {d : Device} (hd : d.table.discards p = true)
    (key : Nat) (h : Header) :
    defaultAction p key h d = (d.count (.port p .defaultHits)).count (.port p .tableDiscards) := by
  simp [defaultAction, Device.countPort, hd]

/-- R47: the default FORWARD. -/
theorem defaultAction_of_not_discards {p : PortId} {d : Device} (hd : d.table.discards p = false)
    (key : Nat) (h : Header) :
    defaultAction p key h d = forwardPart p key h h.label (d.count (.port p .defaultHits)) := by
  simp [defaultAction, Device.countPort, hd]

@[simp] theorem defaultAction_table (p : PortId) (key : Nat) (h : Header) (d : Device) :
    (defaultAction p key h d).table = d.table := by
  cases hd : d.table.discards p with
  | true => simp [defaultAction_of_discards hd]
  | false => simp [defaultAction_of_not_discards hd]

@[simp] theorem defaultAction_capture (p : PortId) (key : Nat) (h : Header) (d : Device) :
    (defaultAction p key h d).capture = d.capture := by
  cases hd : d.table.discards p with
  | true => simp [defaultAction_of_discards hd]
  | false => simp [defaultAction_of_not_discards hd]

/-- R44, R48: a lookup counts its hit on the winner and changes no other entry. -/
theorem steer_entry (p : PortId) (key : Nat) (h : Header) (d : Device) (j : Fin 64) :
    (steer p key h d).table.entries[j] =
      if d.table.winner p h.label = some j then
        { d.table.entries[j] with hits := saturatingSucc d.table.entries[j].hits }
      else d.table.entries[j] := by
  cases hw : d.table.winner p h.label with
  | none => simp [steer_of_no_winner hw]
  | some i =>
    rw [steer_of_winner hw, actOn_table, Device.entry_onEntry]
    by_cases hj : j = i
    · subst hj; simp
    · have hi : i ≠ j := fun e => hj e.symm
      simp [hj, hi]

/-- Settles O21: the search gives the lowest index, the winner's ACTION the parts, and no part reaches
the table. -/
theorem lookupTakesLowestIndex : Obligations.LookupTakesLowestIndex := by
  refine ⟨fun e p label => ?_, Table.winner_eq_some_iff, Table.winner_eq_none_iff,
    fun p key h d => ⟨fun i hw => ?_, fun j => ?_⟩⟩
  · cases p with
    | a => rw [Entry.hit_iff, Applies.covers_a]
    | b => rw [Entry.hit_iff, Applies.covers_b]
  · rw [steer_of_winner hw]
    refine ⟨fun ha => actOn_forward ha _, fun ha => actOn_capture ha _, fun ha => ?_,
      fun ha => actOn_discard ha _⟩
    rw [actOn_copy ha]
    exact (eitherOrder_cases _ _ _).symm.elim .inr .inl
  · rw [steer_entry, saturatingSucc_eq_ite]

/-- Settles O23, by the two defaults of the direction. -/
theorem defaultDecides : Obligations.DefaultDecides := by
  intro p key h d hw
  rw [steer_of_no_winner hw]
  refine ⟨fun hd => ?_, fun hd => ?_, defaultAction_table p key h d, defaultAction_capture p key h d⟩
  · refine defaultAction_of_discards ?_ key h
    cases p <;> exact hd
  · refine defaultAction_of_not_discards ?_ key h
    cases p <;> exact hd

/-! ## An operation the batch has come to (R129, R130) -/

/-- R130: the operation's effect, and its result joined to the batch. -/
theorem runOperation_atOperation {d : Device} {b : Batch} {o : Op} (h : d.AtOperation b o)
    (f : Device → OpOutcome) :
    runOperation o f d = (f d).dev.withResult b o (f d).status (f d).data := by
  obtain ⟨-, hbatch, hfailed, hhead, hreset⟩ := h
  have hdue : b.due o = true := by simp [Batch.due, hfailed, hhead]
  rw [runOperation_due hbatch hdue hreset]
  rfl

/-- A command whose arm of `exec` runs the operation that the batch has come to. -/
theorem exec_atOperation {s : State} {b : Batch} {o : Op} {c : Instr} {f : Device → OpOutcome}
    {r : OpOutcome} (harm : exec c s = onDevice (unlessHeld (runOperation o f)) s)
    (h : s.dev.AtOperation b o) (hr : f s.dev = r) :
    exec c s = s.nextWith (r.dev.withResult b o r.status r.data) := by
  have ⟨hlive, _⟩ := h
  rw [harm, onDevice, unlessHeld_free hlive, runOperation_atOperation h, hr, State.nextWith]

/-! ## The entry a form describes (R39) -/

theorem appliesOf_eq_none_iff (code : BitVec 2) : appliesOf code = none ↔ code = 0 := by
  revert code; decide

theorem code_of_appliesOf {code : BitVec 2} {x : Applies} (h : appliesOf code = some x) :
    x.code = code := by
  revert code; cases x <;> decide

theorem actionOf_eq_none_iff (code : BitVec 3) : actionOf code = none ↔ 3 < code.toNat := by
  revert code; decide

theorem code_of_actionOf {code : BitVec 3} {x : Action} (h : actionOf code = some x) :
    x.code = code := by
  revert code; cases x <;> decide

theorem aligned_iff (label : Half) (order : Nat) :
    aligned label order = true ↔ label.toNat % 2 ^ order = 0 := by
  simp [aligned]

/-- R39 (2): a field of the form is bad. -/
def EntryForm.Bad (f : EntryForm) : Prop :=
  16 < f.order.toNat ∨ f.base.toNat % 2 ^ f.order.toNat ≠ 0
    ∨ (f.translate = true ∧ f.newBase.toNat % 2 ^ f.order.toNat ≠ 0) ∨ 7 < f.channel.toNat
    ∨ 3 < f.action.toNat ∨ f.applies = 0

/-- The entry has the fields of the form, and HITS 0. -/
def EntryForm.Describes (f : EntryForm) (e : Entry) : Prop :=
  e.valid = f.valid ∧ e.base = f.base ∧ e.order.val = f.order.toNat ∧ e.applies.code = f.applies
    ∧ e.action.code = f.action ∧ e.translate = f.translate ∧ e.newBase = f.newBase
    ∧ e.channel.val = f.channel.toNat ∧ e.hits = 0

theorem entryOf_of_bad {f : EntryForm} (h : EntryForm.Bad f) : entryOf f = none := by
  unfold entryOf
  split
  · rename_i _ _ happlies haction
    have happliesCode : f.applies ≠ 0 := fun e => by
      simp [(appliesOf_eq_none_iff _).mpr e] at happlies
    have hactionCode : ¬3 < f.action.toNat := fun e => by
      simp [(actionOf_eq_none_iff _).mpr e] at haction
    split
    · rename_i hrange
      refine if_neg fun hplace => ?_
      simp only [Bool.and_eq_true, Bool.or_eq_true, Bool.not_eq_true', aligned_iff] at hplace
      obtain ⟨hbase, hnew⟩ := hplace
      rcases h with h | h | ⟨ht, h⟩ | h | h | h
      · omega
      · exact h hbase
      · exact hnew.elim (by simp [ht]) h
      · omega
      · exact hactionCode h
      · exact happliesCode h
    · rfl
  · rfl

theorem entryOf_of_not_bad {f : EntryForm} (h : ¬EntryForm.Bad f) :
    ∃ e, entryOf f = some e ∧ EntryForm.Describes f e := by
  simp only [EntryForm.Bad, not_or, not_and, not_not, not_lt] at h
  obtain ⟨horder, hbase, hnew, hchannel, haction, happlies⟩ := h
  obtain ⟨applies, happlies⟩ :=
    Option.ne_none_iff_exists'.mp (mt (appliesOf_eq_none_iff f.applies).mp happlies)
  obtain ⟨action, haction⟩ :=
    Option.ne_none_iff_exists'.mp (mt (actionOf_eq_none_iff f.action).mp (not_lt.mpr haction))
  have hplace : (aligned f.base f.order.toNat
      && (!f.translate || aligned f.newBase f.order.toNat)) = true := by
    cases ht : f.translate <;> simp_all [aligned]
  simp only [entryOf, happlies, haction, dif_pos (And.intro horder hchannel), if_pos hplace]
  exact ⟨_, rfl, rfl, rfl, rfl, code_of_appliesOf happlies, code_of_actionOf haction, rfl, rfl, rfl,
    rfl⟩

/-! ## The operations on the table (R39, R50, R53) -/

theorem opTableWrite_of_ge {index : Byte} (h : 64 ≤ index.toNat) (form : EntryForm) (d : Device) :
    opTableWrite index form d = failsWith .badIndex d := by
  rw [opTableWrite, dif_neg (Nat.not_lt.mpr h)]

theorem opTableWrite_of_bad {index : Byte} {i : Fin 64} (hi : index.toNat = i.val)
    {form : EntryForm} (h : EntryForm.Bad form) (d : Device) :
    opTableWrite index form d = failsWith .badEntry d := by
  rw [opTableWrite, dif_pos (hi ▸ i.isLt), entryOf_of_bad h]

theorem opTableWrite_of_entry {index : Byte} {i : Fin 64} (hi : index.toNat = i.val)
    {form : EntryForm} {e : Entry} (h : entryOf form = some e) (d : Device) :
    opTableWrite index form d = yieldsData [] (d.onEntry i fun _ => e) := by
  obtain ⟨i, hlt⟩ := i
  subst hi
  rw [opTableWrite, dif_pos hlt, h]

theorem opTableRead_of_ge {index : Byte} (h : 64 ≤ index.toNat) (clear : Bool) (d : Device) :
    opTableRead index clear d = failsWith .badIndex d := by
  rw [opTableRead, dif_neg (Nat.not_lt.mpr h)]

theorem opTableRead_of_index {index : Byte} {i : Fin 64} (clear : Bool) (d : Device) :
    index.toNat = i.val → opTableRead index clear d =
      yieldsData (encodeForm (formOf d.table.entries[i]) ++ wordBytes d.table.entries[i].hits)
        (if clear then d.onEntry i fun e => { e with hits := 0 } else d) := by
  intro hi
  obtain ⟨i, hlt⟩ := i
  subst hi
  rw [opTableRead, dif_pos hlt]

theorem opTableInvalidate_of_not_legal {first count : Byte}
    (h : ¬(1 ≤ count.toNat ∧ count.toNat ≤ 64 ∧ first.toNat + count.toNat ≤ 64)) (d : Device) :
    opTableInvalidate first count d = failsWith .badIndex d := by
  rw [opTableInvalidate, if_neg h]

theorem opTableInvalidate_of_legal {first count : Byte}
    (h : 1 ≤ count.toNat ∧ count.toNat ≤ 64 ∧ first.toNat + count.toNat ≤ 64) (d : Device) :
    opTableInvalidate first count d =
      yieldsData [] { d with table := invalidateRange first.toNat count.toNat d.table } := by
  rw [opTableInvalidate, if_pos h]

/-- R53: the entries of the range become invalid, and the rest stay. -/
theorem invalidateRange_entry (first count : Nat) (t : Table) (i : Fin 64) :
    (invalidateRange first count t).entries[i] =
      if first ≤ i.val ∧ i.val < first + count then { t.entries[i] with valid := false }
      else t.entries[i] := by
  simp [invalidateRange]

/-- R39, R52. -/
theorem tableWrite_runs {s : State} {b : Batch} {index : Byte} {form : EntryForm} {i : Fin 64}
    (h : s.dev.AtOperation b (.tableWrite index form)) (hi : index.toNat = i.val)
    (hgood : ¬EntryForm.Bad form) : ∃ e : Entry, exec (.tableWrite index form) s = s.nextWith
      ((s.dev.onEntry i fun _ => e).withResult b (.tableWrite index form) .ok [])
      ∧ EntryForm.Describes form e := by
  obtain ⟨e, he, hfields⟩ := entryOf_of_not_bad hgood
  exact ⟨e, exec_atOperation rfl h (opTableWrite_of_entry hi he s.dev), hfields⟩

/-- Settles O35: each operation through its outcomes at a live batch that has come to it. -/
theorem tableOperationsRun : Obligations.TableOperationsRun := by
  refine ⟨by decide, by decide, fun e => rfl, fun s b =>
    ⟨fun index form h => ⟨fun hi => ?_, fun i hi => ⟨fun hbad => ?_, tableWrite_runs h hi⟩⟩,
      fun index clear h => ⟨fun hi => ?_, fun i hi => ?_⟩,
      fun first count h => ⟨fun hrange => ?_, fun hrange => ?_⟩⟩⟩
  · exact exec_atOperation rfl h (opTableWrite_of_ge hi form s.dev)
  · exact exec_atOperation rfl h (opTableWrite_of_bad hi hbad s.dev)
  · exact exec_atOperation rfl h (opTableRead_of_ge hi clear s.dev)
  · exact exec_atOperation rfl h (opTableRead_of_index clear s.dev hi)
  · exact exec_atOperation rfl h (opTableInvalidate_of_not_legal hrange s.dev)
  · exact ⟨_, exec_atOperation rfl h (opTableInvalidate_of_legal hrange s.dev), rfl, rfl,
      invalidateRange_entry _ _ _⟩

end Sys2Proof.Machine

/-! SUPPORT. Dispatch and egress (R62 to R72): the outcomes of a forward part, the choice of an arbiter
among R, F and I, and the statements of the family. -/

namespace Sys2Proof.Machine

/-! ## The forward part (R62, R63) -/

theorem Port.online_eq_true_iff (P : Port) : P.online = true ↔ P.link = .online := by
  simp [Port.online]

theorem forwardPart_of_hops_zero {h : Header} (hh : h.hops = 0) (p : PortId) (key : Nat)
    (label : Half) (d : Device) :
    forwardPart p key h label d = d.portError .hopExpired .hopExpired p (some h) := by
  rw [forwardPart, if_pos hh]

theorem forwardPart_of_not_online {p : PortId} {h : Header} {d : Device} (hh : h.hops ≠ 0)
    (hlink : (d.port p.opposite).link ≠ .online) (key : Nat) (label : Half) :
    forwardPart p key h label d = d.portError .egressDropped .egressDown p.opposite (some h) := by
  have hdown : (!(d.port p.opposite).online) = true := by simpa [Port.online] using hlink
  rw [forwardPart, if_neg hh, if_pos hdown]

theorem forwardPart_of_online {p : PortId} {h : Header} {d : Device} (hh : h.hops ≠ 0)
    (hlink : (d.port p.opposite).link = .online) (key : Nat) (label : Half) :
    forwardPart p key h label d = makeReference p key h label none d := by
  have hup : ¬(!(d.port p.opposite).online) = true := by simpa [Port.online] using hlink
  rw [forwardPart, if_neg hh, if_neg hup]

/-- Settles O24, by the check that decides. -/
theorem forwardPartChecked : Obligations.ForwardPartChecked := by
  refine ⟨⟨rfl, rfl⟩, fun p key h label d => ⟨fun hh => ?_, fun hh hlink => ?_, fun hh hlink => ?_⟩⟩
  · rw [forwardPart_of_hops_zero hh, Device.portError, Device.countPort]
  · rw [forwardPart_of_not_online hh hlink, Device.portError, Device.countPort]
  · rw [forwardPart_of_online hh hlink]
    rfl

/-! ## The candidates F and I (R70, R71) -/

theorem offeredSlot_eq_some_iff (d : Device) (p : PortId) (k : Parity) :
    offeredSlot d p = some k ↔
      k = d.nextParity p ∧ (d.slot ⟨p, k⟩).owner = .waiting ∧ (d.slot ⟨p, k⟩).offered ≠ none := by
  rw [offeredSlot, Option.ite_none_right_eq_some, Option.some.injEq]
  constructor
  · rintro ⟨hslot, rfl⟩
    exact ⟨rfl, hslot⟩
  · rintro ⟨rfl, hslot⟩
    exact ⟨hslot, rfl⟩

theorem chooseForwardOrLaunch_of_no_candidate {p : PortId} {d : Device}
    (hqueue : (d.arbiter p).queue = []) (hslot : offeredSlot d p = none) :
    chooseForwardOrLaunch p d = d := by
  simp only [chooseForwardOrLaunch, hqueue, hslot]

theorem chooseForwardOrLaunch_of_forward_alone {p : PortId} {d : Device} {ref : ForwardRef}
    {rest : List ForwardRef} (hqueue : (d.arbiter p).queue = ref :: rest)
    (hslot : offeredSlot d p = none) :
    chooseForwardOrLaunch p d = chooseForward p ref rest (d.arbiter p).share d := by
  simp only [chooseForwardOrLaunch, hqueue, hslot]

/-- R71 (3): F wins below INJECT_SHARE. -/
theorem chooseForwardOrLaunch_of_share_lt {p : PortId} {d : Device} {ref : ForwardRef}
    {rest : List ForwardRef} {k : Parity} (hqueue : (d.arbiter p).queue = ref :: rest)
    (hslot : offeredSlot d p = some k)
    (hshare : (d.arbiter p).share < d.egressCtl.injectShare.toNat) :
    chooseForwardOrLaunch p d = chooseForward p ref rest ((d.arbiter p).share + 1) d := by
  simp only [chooseForwardOrLaunch, hqueue, hslot, if_pos hshare]

/-- R71 (2), (3): I wins alone, and against F at or above INJECT_SHARE. -/
theorem chooseForwardOrLaunch_of_launch {p : PortId} {d : Device} {k : Parity}
    (hslot : offeredSlot d p = some k)
    (hwins : (d.arbiter p).queue = [] ∨ d.egressCtl.injectShare.toNat ≤ (d.arbiter p).share) :
    chooseForwardOrLaunch p d = chooseLaunch p k d := by
  cases hqueue : (d.arbiter p).queue with
  | nil => simp only [chooseForwardOrLaunch, hqueue, hslot]
  | cons ref rest =>
    have hshare : ¬(d.arbiter p).share < d.egressCtl.injectShare.toNat := by
      simpa [hqueue] using hwins
    simp only [chooseForwardOrLaunch, hqueue, hslot, if_neg hshare]

/-! ## The candidate R (R68, R70) -/

/-- The head of the origin list can be chosen, as the frame `f`: an ALERT only while the record is
FILLED. -/
inductive OriginBody.Gives (d : Device) : OriginBody → OriginKind → Frame → Prop
  | reply (f : Frame) : Gives d (.reply f) .reply f
  | enumRet (f : Frame) (renewed : Bool) : Gives d (.enumRet f renewed) .enumRet f
  | alert (h : d.stats.record ≠ none) : Gives d .alert .alert (alertFrame d)

/-- The part after the head `e` of its origin list was chosen as the frame `f`. -/
def Device.originChosen (e : OriginEntry) (rest : List OriginEntry) (kind : OriginKind) (f : Frame)
    (d : Device) : Device :=
  { d with
    origin := { e with chosen := true } :: rest
    egress := d.egress.set .a { d.arbiter .a with
      chosen := some { frame := .origin kind f, sending := false } }
    stats := { d.stats with
      alertPending := if kind = .alert then false else d.stats.alertPending } }

theorem chooseOrigin_of_gives {e : OriginEntry} {kind : OriginKind} {f : Frame} {d : Device}
    (h : e.body.Gives d kind f) (rest : List OriginEntry) :
    chooseOrigin (e :: rest) d = d.originChosen e rest kind f := by
  obtain ⟨body, chosen⟩ := e
  cases h with
  | reply => rfl
  | enumRet => rfl
  | alert hfilled =>
    obtain ⟨r, hrecord⟩ := Option.ne_none_iff_exists'.mp hfilled
    simp only [chooseOrigin, hrecord]
    rfl

/-- R68: an ALERT whose record is EMPTY is withdrawn. -/
theorem chooseOrigin_of_empty_alert {e : OriginEntry} {d : Device} (hbody : e.body = .alert)
    (hrecord : d.stats.record = none) (rest : List OriginEntry) :
    chooseOrigin (e :: rest) d = chooseOrigin rest (d.setAlertPending false) := by
  simp only [chooseOrigin, hbody, hrecord]

theorem choose_a_eq_chooseOrigin {d : Device} (hlink : (d.port .a).link = .online)
    (hchosen : (d.arbiter .a).chosen = none) : choose .a d = chooseOrigin d.origin d := by
  rw [choose, if_pos ⟨(Port.online_eq_true_iff _).mpr hlink, hchosen⟩]

/-- R68, R70: the choice made again, from the part without the withdrawn ALERT. -/
theorem choose_of_empty_alert {e : OriginEntry} {rest : List OriginEntry} {d : Device}
    (hlink : (d.port .a).link = .online) (hchosen : (d.arbiter .a).chosen = none)
    (horigin : d.origin = e :: rest) (hbody : e.body = .alert) (hrecord : d.stats.record = none) :
    choose .a d = choose .a
      { d with origin := rest, stats := { d.stats with alertPending := false } } := by
  have hagain : choose .a { d.setAlertPending false with origin := rest } =
      chooseOrigin rest { d.setAlertPending false with origin := rest } :=
    choose_a_eq_chooseOrigin hlink hchosen
  rw [choose_a_eq_chooseOrigin hlink hchosen, horigin, chooseOrigin_of_empty_alert hbody hrecord,
    ← chooseOrigin_origin rest rest]
  exact hagain.symm

/-! ## The bytes of a FILLED record (Table 13.6) -/

theorem portByte_getD (port : Option PortId) :
    (port.map portByte).getD 0 = if port = some .b then 1 else 0 := by
  rcases port with _ | _ | _ <;> rfl

/-- The seven bytes of absent frame fields are those of fields that are all zero. -/
theorem frameFieldBytes_eq_getD (frame : Option FrameFields) :
    frameFieldBytes frame = frameFieldBytes (some (frame.getD ⟨0, 0, 0, 0, 0⟩)) := by
  cases frame <;> rfl

/-! ## The statement on the arbiters -/

theorem choose_eq_self_of_blocked {p : PortId} {d : Device}
    (h : (d.port p).link ≠ .online ∨ (d.arbiter p).chosen ≠ none) : choose p d = d :=
  choose_blocked (h.imp_left fun hlink => by simpa [Port.online] using hlink)

/-- Settles O28: the head of the origin list first, and without one the share counter between F and I. -/
theorem arbiterChoosesByShare : Obligations.ArbiterChoosesByShare := by
  refine ⟨fun d => rfl, fun p d => choose_eq_self_of_blocked, fun p d k => offeredSlot_eq_some_iff d p k,
    fun p d hlink hchosen => ⟨?_, ?_, ?_, fun hnone => ?_⟩⟩
  · rintro e rest f kind rfl horigin hhead
    have hgives : e.body.Gives d kind f := by
      rcases hhead with ⟨hbody, rfl⟩ | ⟨⟨renewed, hbody⟩, rfl⟩ | ⟨hbody, hfilled, rfl, rfl⟩ <;>
        rw [hbody]
      · exact .reply f
      · exact .enumRet f renewed
      · exact .alert hfilled
    rw [choose_a_eq_chooseOrigin hlink hchosen, horigin, chooseOrigin_of_gives hgives,
      Device.originChosen]
  · rintro e rest rfl horigin hbody hrecord
    exact choose_of_empty_alert hlink hchosen horigin hbody hrecord
  · rintro ⟨reported, port, frame, channel, buffer⟩ overflow
    simp only [faultForm, portByte_getD, frameFieldBytes_eq_getD frame]
    cases channel <;> rfl
  · rw [choose_noOrigin ((Port.online_eq_true_iff _).mpr hlink) hchosen hnone]
    refine ⟨fun ref rest hqueue hslot => ?_, fun ref rest k hqueue hslot hshare => ?_,
      fun k hslot hwins => ?_, chooseForwardOrLaunch_of_no_candidate⟩
    · exact chooseForwardOrLaunch_of_forward_alone hqueue hslot
    · exact chooseForwardOrLaunch_of_share_lt hqueue hslot hshare
    · exact chooseForwardOrLaunch_of_launch hslot hwins

end Sys2Proof.Machine

/-! SUPPORT. Capture channels (R81 to R86, R103) and the node number (R142, R153): the four checks of a
capture decision, what an accepted part changes, and the statements of the family. -/

namespace Sys2Proof.Machine

/-! ## The first check that applies decides (R81 to R86) -/

/-- R82: a channel that is not ENABLED. -/
theorem capturePart_of_disabled {ch : Fin 8} {d : Device} (hdisabled : (d.channel ch).enabled = false)
    (p : PortId) (key : Nat) (h : Header) (entry : Fin 64) :
    capturePart p key h entry ch d = d.count (.channel ch .disabledDrop) := by
  simp [capturePart, hdisabled, Device.countChannel]

/-- R83: a repeat under SEQ_CHECK. -/
theorem capturePart_of_repeat {h : Header} {ch : Fin 8} {d : Device}
    (henabled : (d.channel ch).enabled = true) (hcheck : (d.channel ch).seqCheck = true)
    (hseq : h.seq ≠ (d.channel ch).expect) (p : PortId) (key : Nat) (entry : Fin 64) :
    capturePart p key h entry ch d = d.count (.channel ch .repeatDrop) := by
  simp [capturePart, henabled, hcheck, hseq, Device.countChannel]

/-- R82, R83: the channel is ENABLED, and under SEQ_CHECK the frame has the SEQ it expects. -/
structure Channel.Expects (c : Channel) (h : Header) : Prop where
  enabled : c.enabled = true
  seq : c.seqCheck = true → h.seq = c.expect

theorem Channel.Expects.no_repeat {c : Channel} {h : Header} (hc : c.Expects h) :
    (c.seqCheck && h.seq != c.expect) = false := by
  cases hcheck : c.seqCheck with
  | false => rfl
  | true => simp [hc.seq hcheck]

/-- R84: HELD at or above QUOTA. -/
theorem capturePart_of_quota {h : Header} {ch : Fin 8} {d : Device} (hc : (d.channel ch).Expects h)
    (hquota : (d.channel ch).quota.toNat ≤ (d.channel ch).held) (p : PortId) (key : Nat)
    (entry : Fin 64) :
    capturePart p key h entry ch d = d.count (.channel ch .quotaDrop) := by
  simp [capturePart, hc.enabled, hc.no_repeat, hquota, Device.countChannel]

/-- R85: the free ring is empty. -/
theorem capturePart_of_free_nil {h : Header} {ch : Fin 8} {d : Device}
    (hc : (d.channel ch).Expects h) (hquota : (d.channel ch).held < (d.channel ch).quota.toNat)
    (hfree : d.capture.free = []) (p : PortId) (key : Nat) (entry : Fin 64) :
    capturePart p key h entry ch d = captureNoBuffer p h ch d := by
  simp [capturePart, hc.enabled, hc.no_repeat, Nat.not_le.mpr hquota, hfree]

/-- R86: all four checks pass. -/
theorem capturePart_of_free_cons {h : Header} {ch : Fin 8} {d : Device} {b : Fin 32}
    {rest : List (Fin 32)} (hc : (d.channel ch).Expects h)
    (hquota : (d.channel ch).held < (d.channel ch).quota.toNat)
    (hfree : d.capture.free = b :: rest) (p : PortId) (key : Nat) (entry : Fin 64) :
    capturePart p key h entry ch d = captureAccept p key h entry ch b rest d := by
  simp [capturePart, hc.enabled, hc.no_repeat, Nat.not_le.mpr hquota, hfree]

/-! ## What an accepted part changes (R86) -/

@[simp] theorem Device.channel_onPort (p : PortId) (f : Port → Port) (d : Device) (c : Fin 8) :
    (d.onPort p f).channel c = d.channel c := rfl

@[simp] theorem Device.channel_onBuffer (b : Fin 32) (f : Buffer → Buffer) (d : Device) (c : Fin 8) :
    (d.onBuffer b f).channel c = d.channel c := rfl

@[simp] theorem Device.buffer_onPort (p : PortId) (f : Port → Port) (d : Device) (b : Fin 32) :
    (d.onPort p f).buffer b = d.buffer b := rfl

@[simp] theorem Device.buffer_onChannel (c : Fin 8) (f : Channel → Channel) (d : Device)
    (b : Fin 32) : (d.onChannel c f).buffer b = d.buffer b := rfl

section Accepted

variable (p : PortId) (key : Nat) (h : Header) (entry : Fin 64) (ch : Fin 8) (b : Fin 32)
  (rest : List (Fin 32)) (d : Device)

theorem captureAccept_buffer (x : Fin 32) :
    (captureAccept p key h entry ch b rest d).buffer x =
      if x = b then { state := .filling, channel := ch } else d.buffer x := by
  rw [captureAccept, Device.buffer_onPort, Device.buffer_onChannel, Device.buffer_onBuffer]
  rfl

theorem captureAccept_channel (c : Fin 8) :
    (captureAccept p key h entry ch b rest d).channel c =
      if c = ch then
        { d.channel ch with
          held := (d.channel ch).held + 1, starved := false
          expect := if (d.channel ch).seqCheck then !(d.channel ch).expect
            else (d.channel ch).expect }
      else d.channel c := by
  rw [captureAccept, Device.channel_onPort, Device.channel_onChannel, Device.channel_onBuffer,
    Device.channel_onBuffer]
  rfl

theorem captureAccept_port (q : PortId) :
    (captureAccept p key h entry ch b rest d).port q =
      if q = p then (d.port p).mapResidents (beginCaptureOf key) else d.port q := by
  rw [captureAccept, Device.port_onPort]
  rfl

end Accepted

/-- Settles O25, by the first check that applies, and for an accepted part field by field. -/
theorem captureDecided : Obligations.CaptureDecided := by
  intro p key h i ch d
  refine ⟨fun hdisabled => capturePart_of_disabled hdisabled p key h i, fun henabled =>
    ⟨fun hcheck hseq => capturePart_of_repeat henabled hcheck hseq p key i, fun hseq => ?_⟩⟩
  have hc : (d.channel ch).Expects h := ⟨henabled, hseq⟩
  refine ⟨fun hquota => capturePart_of_quota hc hquota p key i, fun hquota =>
    ⟨fun hfree => ?_, fun b rest hfree => ?_⟩⟩
  · rw [capturePart_of_free_nil hc hquota hfree]
    rfl
  · rw [capturePart_of_free_cons hc hquota hfree]
    refine ⟨rfl, ?_, fun x hx => ?_, ?_, fun c hne => ?_, rfl, rfl, rfl, ?_, ?_, rfl⟩
    · rw [captureAccept_buffer, if_pos rfl]
    · rw [captureAccept_buffer, if_neg hx]
    · rw [captureAccept_channel, if_pos rfl]
    · rw [captureAccept_channel, if_neg hne]
    · rw [captureAccept_port, if_pos rfl]
      rfl
    · rw [captureAccept_port, if_neg (PortId.opposite_ne p)]

/-! ## SEQ_RESET and SET_NODE (R103, R141, R142, R153) -/

theorem opSeqReset_of_ge {channel : Byte} (h : 8 ≤ channel.toNat) (d : Device) :
    opSeqReset channel d = failsWith .badOperand d := by
  rw [opSeqReset, dif_neg (Nat.not_lt.mpr h)]

theorem opSeqReset_of_channel {channel : Byte} {c : Fin 8} (hc : channel.toNat = c.val)
    (d : Device) :
    opSeqReset channel d = yieldsData [] (d.onChannel c fun x => { x with expect := false }) := by
  obtain ⟨c, hlt⟩ := c
  subst hc
  rw [opSeqReset, dif_pos hlt]

/-- R142: a node number is 1..62. -/
theorem opSetNode_of_not_legal {number : Byte} (h : number = 0 ∨ 62 < number.toNat) (d : Device) :
    opSetNode number d = failsWith .badOperand d := by
  have hrange : ¬(1 ≤ number.toNat ∧ number.toNat ≤ 62) := by
    rintro ⟨hlow, hhigh⟩
    rcases h with rfl | habove
    · exact absurd hlow (by decide)
    · omega
  rw [opSetNode, if_neg hrange]

theorem opSetNode_of_legal {number : Byte} (hlow : 1 ≤ number.toNat) (hhigh : number.toNat ≤ 62)
    (d : Device) :
    opSetNode number d =
      yieldsData [] (d.onAgent fun a => { a with node := number.setWidth 6 }).setNodeChanged := by
  rw [opSetNode, if_pos ⟨hlow, hhigh⟩]

/-- Settles O38: each operation through its outcomes at a live batch that has come to it. -/
theorem seqResetAndSetNode : Obligations.SeqResetAndSetNode := by
  refine fun s b => ⟨fun channel h => ⟨fun hrange => ?_, fun c hc => ?_⟩,
    fun number h => ⟨fun hrange => ?_, fun hlow hhigh => ?_⟩⟩
  · exact exec_atOperation rfl h (opSeqReset_of_ge hrange s.dev)
  · exact exec_atOperation rfl h (opSeqReset_of_channel hc s.dev)
  · exact exec_atOperation rfl h (opSetNode_of_not_legal hrange s.dev)
  · exact exec_atOperation rfl h (opSetNode_of_legal hlow hhigh s.dev)

end Sys2Proof.Machine

/-! SUPPORT. Counters, echo and the request for a station reset (R139, R143, R144): the ids of Table 13.9,
the outcomes of COUNTER_READ and ECHO, and the statements of the family. -/

namespace Sys2Proof.Machine

/-! ## The ids of the counters (Table 13.9) -/

/-- Port B's counters follow port A's thirteen, in the same order. -/
theorem CounterId.id_port_b (c : PortCounter) :
    (CounterId.port .b c).id.val = 13 + (CounterId.port .a c).id.val := rfl

theorem CounterId.id_channel (ch : Fin 8) (c : ChannelCounter) :
    (CounterId.channel ch c).id.val = 26 + 6 * ch.val + c.place.val := rfl

/-- The six counters of a channel have consecutive ids, in the order of Table 13.9. -/
theorem CounterId.id_channel_row (ch : Fin 8) :
    [CounterId.channel ch .captured, .channel ch .clipped, .channel ch .noBuffer
    , .channel ch .quotaDrop, .channel ch .repeatDrop, .channel ch .disabledDrop].map
        (fun c => c.id.val) = [0, 1, 2, 3, 4, 5].map (26 + 6 * ch.val + ·) := by
  simp only [List.map_cons, List.map_nil, CounterId.id_channel]
  rfl

/-! ## COUNTER_READ (R139) -/

theorem opCounterRead_of_ge {id : Byte} (h : 82 ≤ id.toNat) (clear : Bool) (d : Device) :
    opCounterRead id clear d = failsWith .badOperand d := by
  rw [opCounterRead, dif_neg (Nat.not_lt.mpr h)]

theorem opCounterRead_of_id {id : Byte} {i : Fin 82} (clear : Bool) (d : Device) :
    id.toNat = i.val → opCounterRead id clear d =
      yieldsData (wordBytes d.stats.counters[i])
        (if clear then { d with stats := { d.stats with counters := d.stats.counters.set i 0 } }
        else d) := by
  intro hi
  obtain ⟨i, hlt⟩ := i
  subst hi
  rw [opCounterRead, dif_pos hlt]
  rfl

/-- Settles O36: the ids by the table, and the operation through its outcomes at a live batch that has
come to it. -/
theorem counterRead : Obligations.CounterRead := by
  refine ⟨fun d c => rfl, rfl, CounterId.id_port_b, CounterId.id_channel_row, rfl, fun w => rfl,
    fun s b id clear h => ⟨fun hrange => ?_, fun i hi => ?_⟩⟩
  · exact exec_atOperation rfl h (opCounterRead_of_ge hrange clear s.dev)
  · exact exec_atOperation rfl h (opCounterRead_of_id clear s.dev hi)

/-! ## ECHO and STATION_RESET (R143, R144) -/

theorem opEcho_of_le {data : List Byte} (h : data.length ≤ 56) (d : Device) :
    opEcho data d = yieldsData data d := by
  rw [opEcho, if_pos h]

theorem opEcho_of_gt {data : List Byte} (h : 56 < data.length) (d : Device) :
    opEcho data d = failsWith .badOperand d := by
  rw [opEcho, if_neg (Nat.not_le.mpr h)]

/-- Settles O39: the outcomes of ECHO by the count of its bytes, and the one outcome of STATION_RESET. -/
theorem echoAndStationReset : Obligations.EchoAndStationReset := by
  refine fun s b => ⟨fun data h => ⟨fun hfits => ?_, fun hlong => ?_⟩, fun h => ?_⟩
  · exact exec_atOperation rfl h (opEcho_of_le hfits s.dev)
  · exact exec_atOperation rfl h (opEcho_of_gt hlong s.dev)
  · exact exec_atOperation (f := opStationReset) rfl h rfl

end Sys2Proof.Machine

/-! SUPPORT. Counters, the fault record and alerts (R157, R160, R162, R163, R167): one count, one outcome of
a report per case of R162, and the statement of the family. -/

namespace Sys2Proof.Machine

/-! ## A count (R157) -/

/-- The counter `c` alone rises, and not past 4294967295. -/
theorem Device.counter_count_eq_ite (c x : CounterId) (d : Device) :
    (d.count c).counter x =
      if x = c ∧ (d.counter x).toNat ≠ 4294967295 then d.counter x + 1 else d.counter x := by
  rw [Device.countedOnly_count, saturatingSucc_eq_ite]
  by_cases hx : x = c
  · subst hx
    by_cases htop : (d.counter x).toNat = 4294967295 <;> simp [htop]
  · simp [hx]

/-! ## The origin list and the alert (R66, R167) -/

theorem Device.hasOrigin_eq_true_iff (d : Device) (k : OriginKind) :
    d.hasOrigin k = true ↔ ∃ e ∈ d.origin, e.body.kind = k := by
  simp only [Device.hasOrigin, List.any_eq_true, decide_eq_true_eq]

/-- R167: a second ALERT entry is never placed. -/
theorem Device.raiseAlert_of_hasOrigin {d : Device} (h : d.hasOrigin .alert = true) :
    d.raiseAlert = d.setAlertPending true := if_pos h

theorem Device.raiseAlert_of_not_hasOrigin {d : Device} (h : d.hasOrigin .alert = false) :
    d.raiseAlert = (d.setAlertPending true).placeOrigin .alert :=
  if_neg (Bool.eq_false_iff.mp h)

/-! ## A report (R160, R162) -/

/-- R160: a kind that FAULT_MASK disables. -/
theorem Device.report_of_masked {d : Device} {r : FaultReport}
    (hmask : d.stats.mask.getLsbD r.kind.bit = false) : d.report r = d := by
  simp [Device.report, hmask]

/-- R162: the record as a report fills it. -/
def Device.fillRecord (r : FaultReport) (d : Device) : Device :=
  { d with stats := { d.stats with record := some r } }

/-- Filling the record leaves the origin list. -/
@[simp] theorem Device.hasOrigin_fillRecord (r : FaultReport) (d : Device) (k : OriginKind) :
    (d.fillRecord r).hasOrigin k = d.hasOrigin k := rfl

/-- R162, R167: an EMPTY record is filled, and ALERT_CTL decides whether an alert is raised. -/
theorem Device.report_of_empty {d : Device} {r : FaultReport}
    (hmask : d.stats.mask.getLsbD r.kind.bit = true) (hempty : d.stats.record = none) :
    d.report r =
      if d.stats.alertEnable then (d.fillRecord r).raiseAlert else d.fillRecord r := by
  simp only [Device.report, hmask, hempty, if_true]
  rfl

/-- R162: the fields of a FILLED record stay, and OVERFLOW stays at 255. -/
theorem Device.report_of_filled {d : Device} {r : FaultReport}
    (hmask : d.stats.mask.getLsbD r.kind.bit = true) (hfilled : d.stats.record ≠ none) :
    d.report r = { d with stats := { d.stats with
      overflow := if d.stats.overflow.toNat = 255 then d.stats.overflow
        else d.stats.overflow + 1 } } := by
  obtain ⟨held, hrecord⟩ := Option.ne_none_iff_exists'.mp hfilled
  have htop : d.stats.overflow = 255 ↔ d.stats.overflow.toNat = 255 :=
    ⟨fun h => by rw [h]; rfl, fun h => BitVec.eq_of_toNat_eq h⟩
  simp only [Device.report, hmask, hrecord, if_true]
  by_cases h : d.stats.overflow = 255
  · rw [if_pos h, if_pos (htop.mp h), h]
  · rw [if_neg h, if_neg (mt htop.mpr h)]

/-- Settles O32: the tables by their rows, a count counter by counter, and a report by its mask bit, by the
record it meets, and for an EMPTY record by ALERT_CTL and the ALERT entry that may stand already. -/
theorem countsAndReportsTaken : Obligations.CountsAndReportsTaken := by
  refine ⟨by decide, fun r overflow => rfl, fun h => rfl, fun k p => ⟨rfl, fun h => rfl⟩,
    saturatingSucc_eq_ite, Device.hasOrigin_eq_true_iff, fun f renewed => ⟨rfl, rfl, rfl⟩,
    fun d c r => ⟨fun x => d.counter_count_eq_ite c x, Device.report_of_masked, fun hmask =>
      ⟨fun hempty hoff => ?_, fun hempty hon => ⟨fun hstands => ?_, fun hnone => ?_⟩,
        Device.report_of_filled hmask⟩⟩⟩
  · rw [Device.report_of_empty hmask hempty, if_neg (Bool.eq_false_iff.mp hoff)]
    rfl
  · rw [Device.report_of_empty hmask hempty, if_pos hon, Device.raiseAlert_of_hasOrigin (by simpa)]
    rfl
  · rw [Device.report_of_empty hmask hempty, if_pos hon,
      Device.raiseAlert_of_not_hasOrigin (by simpa)]
    rfl

end Sys2Proof.Machine

/-! SUPPORT. What an event can do to a line port that concerns no other block: the moves of one port, and
that each symbol, sent or received, is such a move. -/

namespace Sys2Proof.Machine

/-! ## The moves of one port -/

/-- The events of a line port that reach no other block and leave its link state. -/
inductive PortMove (P : Port) : Port → Prop
  /-- R19: a symbol that decodes. -/
  | decoded : PortMove P { P with errorRun := 0 }
  /-- R19 (2): a symbol error short of a link drop. -/
  | erred (h : P.errorRun < 7) : PortMove P { P with errorRun := P.errorRun + 1 }
  /-- R17, R18. -/
  | readied (v : Bool) : PortMove P { P with readySent := v }
  /-- R25. -/
  | credited (n : Nat) (hon : P.online = true) (h : P.held + n ≤ 63) :
      PortMove P { P with held := P.held + n }
  | overran (hon : P.online = true) : PortMove P { P with held := 63 }
  /-- R27. -/
  | began (hon : P.online = true) (hrx : P.rx = none) : PortMove P { P with rx := some RxFrame.fresh }
  /-- R28. -/
  | filled (f : RxFrame) (b : Option Byte) (hrx : P.rx = some f) :
      PortMove P { P with rx := some (f.fill b) }
  /-- R29 (2). -/
  | misformed (f : RxFrame) (b : Option Byte) (h : Header) (hrx : P.rx = some f)
      (h8 : (f.fill b).count = 8) :
      PortMove P { P with rx := some { f.fill b with header := some h, judged := .formatError } }
  /-- R29 (3), R30. -/
  | violated (f : RxFrame) (b : Option Byte) (h : Header) (hrx : P.rx = some f)
      (h8 : (f.fill b).count = 8) :
      PortMove P (Port.giveBack h.blocks
        { P with rx := some { f.fill b with header := some h, judged := .creditViolation } })
  /-- R29 (4). -/
  | charged (f : RxFrame) (b : Option Byte) (h : Header) (hrx : P.rx = some f)
      (h8 : (f.fill b).count = 8) (hle : h.blocks ≤ P.outstanding) :
      PortMove P { P with rx := some { f.fill b with header := some h, charge := some h.blocks }
                          outstanding := P.outstanding - h.blocks }
  /-- R31, R33: the end of a frame in reception. -/
  | closed (f : RxFrame) (hrx : P.rx = some f) (hcharge : f.charge ≠ none) : PortMove P P.dropReception
  | settled (f : RxFrame) (hrx : P.rx = some f) (hcharge : f.charge = none) :
      PortMove P (Port.giveBack f.settlement { P with rx := none })
  | forgotten (f : RxFrame) (hrx : P.rx = some f) (hj : f.judged = .creditViolation) :
      PortMove P { P with rx := none }
  /-- R24. -/
  | announced (symbols : List LineSymbol) (hon : P.online = true) :
      PortMove P { P.announce with lastSent := symbols }
  /-- R36: a symbol that neither begins nor ends a frame of the arbiter. -/
  | sent (tx : Transmitter) (symbols : List LineSymbol) (h : tx.isSending = P.tx.isSending) :
      PortMove P { P with tx, lastSent := symbols }

/-- No move of a port changes its link state. -/
theorem PortMove.link {P Q : Port} (h : PortMove P Q) : Q.link = P.link := by cases h <;> rfl

theorem PortMove.online {P Q : Port} (h : PortMove P Q) : Q.online = P.online := by
  simp only [Port.online, h.link]

/-- No move of a port changes its resident frames. -/
theorem PortMove.residents {P Q : Port} (h : PortMove P Q) : Q.residents = P.residents := by
  cases h <;> rfl

theorem PortMove.isSending {P Q : Port} (h : PortMove P Q) : Q.tx.isSending = P.tx.isSending := by
  cases h with
  | sent tx symbols h => exact h
  | _ => rfl

end Sys2Proof.Machine

/-! SUPPORT. What a step can do, said once: the moves of the part, the few events that are more than a run
of moves, and the induction by which an invariant that each of them keeps is kept by every step. -/

namespace Sys2Proof.Machine

/-! ## The moves of the part -/

/-- The EOF of the frame that port `p` sends, before the frame's sender is informed (R36, R74). -/
def eofSent (p : PortId) (d : Device) : Device :=
  (d.onPort p fun P => { P with tx := .between, lastSent := [.eof] }).onArbiter p
    fun a => { a with chosen := none }

/-- The EOF of a frame of the origin list, whose entry is settled (R67, R69). -/
def originSettled (p : PortId) (d : Device) : Device :=
  { eofSent p d with origin := settleOrigin d.origin }

/-- A port that leaves ONLINE: its account is closed and no frame is sent on (R20, R21). -/
def Port.leaveOnline (link : LinkState) (ready : Bool) (tx : Transmitter) (P : Port) : Port :=
  { P with
    link, readySent := ready, errorRun := 0, rx := none, held := 0, outstanding := 0
    unannounced := P.unannounced + P.charged + P.outstanding, tx }

/-- A resident frame with this key has no forward use yet. -/
def Port.Unforwarded (key : Nat) (P : Port) : Prop :=
  ∃ r ∈ P.residents, r.key = key ∧ r.forwardUse = false

/-- A resident frame with this key has no capture use yet. -/
def Port.Uncaptured (key : Nat) (P : Port) : Prop :=
  ∃ r ∈ P.residents, r.key = key ∧ r.captureUse = false

/-- R123, R131: the batch `b` of the head request `q` is answered and gone. -/
def batchAnswered (b : Batch) (q : RequestCopy) (d : Device) : Device :=
  ((answerRequest q.tag b.payload d).count .requests).onAgent fun a =>
    { a with batch := none, resetDue := b.resetRan }

/-- R109: the slot `k` is handed over, and its direction dealt with. -/
def slotTaken (k : SlotId) (d : Device) : Device :=
  dealSlots k.port
    (d.onSlot k fun s => { s with status := .none, owner := .waiting, offered := none })

/-- What the blocks of the part do, move by move. Every event but those of `Event` is a run of moves. -/
inductive Move (d : Device) : Device → Prop
  | pins (x : Pins) : Move d { d with pins := x }
  | drew (n : Nat) : Move d { d with choices := n }
  | lap (x : Lap) (h : x.latch = d.lap.latch ∨ x.latch = none) : Move d { d with lap := x }
  | counted (c : CounterId) : Move d (d.count c)
  | reported (r : FaultReport) : Move d (d.report r)
  -- line ports
  | port (p : PortId) (Q : Port) (h : PortMove (d.port p) Q) : Move d (d.onPort p fun _ => Q)
  | wentOnline (p : PortId) (h : (d.port p).link = .seeking) : Move d (d.onPort p Port.goOnline)
  | enabled : Move d (enableBOn d)
  | disabled (h : d.ports.b.online = false) : Move d (disableB d)
  | wentDown (p : PortId) (v : Bool) (link : LinkState) (ready : Bool) (tx : Transmitter) (m : Device)
      (hon : (d.port p).online = true)
      (hlink : (link = .seeking ∧ v = d.enableB) ∨ (p = .b ∧ link = .offline ∧ v = false))
      (htx : tx.isSending = false) (hegress : { d with enableB := v }.EgressEmptied m p)
      (hport : m.port p = (d.port p).leaveOnline link ready tx) : Move d m
  -- egress
  | chose (p : PortId) : Move d (choose p d)
  | referred (p : PortId) (key : Nat) (h : Header) (label : Half) (next : Option Byte)
      (hfree : (d.port p).Unforwarded key) (hon : (d.port p.opposite).online = true) :
      Move d (makeReference p key h label next d)
  | sofSent (p : PortId) (c : Chosen) (blocks : Nat) (bytes : List Byte)
      (hc : (d.arbiter p).chosen = some c) (hon : (d.port p).online = true) :
      Move d ((d.onPort p fun P =>
        { P with held := P.held - blocks, tx := .sending bytes 0, lastSent := [.sof] }).onArbiter p
          fun a => { a with chosen := some { c with sending := true } })
  | forwardEnded (p : PortId) (ref : ForwardRef) (sending : Bool)
      (hc : (d.arbiter p).chosen = some { frame := .forward ref, sending }) :
      Move d (((eofSent p d).count (.port p .forwardedOut)).onPort p.opposite
        (Port.endForward ref.key))
  | launchEnded (p : PortId) (k : Parity) (sending : Bool)
      (hc : (d.arbiter p).chosen = some { frame := .launch k, sending }) :
      Move d (dealSlots p (completeSlot p k .sent (eofSent p d)))
  | originEnded (p : PortId) (kind : OriginKind) (f : Frame) (sending : Bool)
      (hc : (d.arbiter p).chosen = some { frame := .origin kind f, sending })
      (hkind : kind = .enumRet ∨ kind = .alert ∧ d.stats.alertPending = false) :
      Move d (originSettled p d)
  | enumReturned (f : Frame) : Move d (d.placeEnumRet f)
  -- capture unit
  | captured (p : PortId) (key : Nat) (h : Header) (entry : Fin 64) (ch : Fin 8) (b : Fin 32)
      (rest : List (Fin 32)) (hfree : d.capture.free = b :: rest) (hkey : (d.port p).Uncaptured key) :
      Move d (captureAccept p key h entry ch b rest d)
  | channel (ch : Fin 8) (x : Channel) (hheld : x.held = (d.channel ch).held)
      (hcfg : (d.channel ch).Configured → x.Configured) : Move d (d.onChannel ch fun _ => x)
  | copied (w : WorkItem) (rest : List WorkItem) (hw : d.capture.work = w :: rest) :
      Move d (completeCopy d)
  | noticeTaken : Move d (takeNotice d)
  | returned (b : Fin 32) (h : (d.buffer b).state = .taken) : Move d (acceptReturn b d)
  | locallyReset (m : Device) (h : d.LocallyReset m) : Move d m
  -- steering table and control words
  | table (t : Table) (h : ∀ i : Fin 64, d.table.entries[i].WellFormed → t.entries[i].WellFormed) :
      Move d { d with table := t }
  | egressCtl (x : EgressCtl) (h : x.injectShare ≠ 0) : Move d { d with egressCtl := x }
  | statsCtl (mask : BitVec 12) (alertEnable : Bool) :
      Move d { d with stats := { d.stats with mask, alertEnable } }
  -- agent
  | copyOffered (h : Header) (q : RequestCopy) : Move d (offerCopy h q d)
  | batch (b : Batch) (hb : d.agent.batch ≠ none) :
      Move d (d.onAgent fun a => { a with batch := some b })
  | batchEnded (b : Batch) (q : RequestCopy) (rest : List RequestCopy) (hb : d.agent.batch = some b)
      (hq : d.agent.queue = q :: rest) (hdue : d.agent.resetDue = false) : Move d (batchAnswered b q d)
  | node (n : BitVec 6) (hlow : 1 ≤ n.toNat) (hhigh : n.toNat ≤ 62) :
      Move d (d.onAgent fun a => { a with node := n })
  | storeCleared : Move d (d.onAgent fun a => { a with lastTag := 0, replay := none })
  -- launch unit
  | slotFreed (k : SlotId) (x : Slot) (hk : (d.slot k).owner ≠ .committed) (hx : x.owner = .free)
      (hoffer : x.offered = none ∨ (x.offered = (d.slot k).offered ∧ (d.slot k).owner = .free)) :
      Move d (d.onSlot k fun _ => x)
  | launchMem (m : List Host.Cell) (h : Memory.wf d.launch.mem → Memory.wf m) :
      Move d { d with launch := { d.launch with mem := m } }
  | handedOver (k : SlotId) (hfree : (d.slot k).owner = .free)
      (hlen : (d.slot k).length.toNat ≤ 1024) : Move d (slotTaken k d)

/-- A run of moves. -/
abbrev Moves : Device → Device → Prop := Relation.ReflTransGen Move

theorem Move.moves {d e : Device} (h : Move d e) : Moves d e := .single h

/-! ## The events of a step -/

/-- R34: the frame in reception becomes resident under a fresh key, with no use yet. -/
def Port.makeResident (frame : Frame) (blocks : Nat) (P : Port) : Port :=
  { P with
    rx := none
    residents := P.residents ++
      [{ key := P.freshKey, frame, blocks, forwardUse := false, captureUse := false }] }

/-- What one event makes of the part, `c` being the command at the front of the queue. Beside runs of
moves there are the arrival of a frame, which is resident without a use until its dispatch is over; the
two EOFs after which a sender acts, in an order that is free (log 5); and the commands that clear
counters, the record or the node number. -/
inductive Event (c : Option Instr) (d : Device) : Device → Prop
  | moves {e : Device} (h : Moves d e) : Event c d e
  | arrived {m n e : Device} (p : PortId) (f : RxFrame) (frame : Frame) (blocks : Nat)
      (before : Moves d m) (hrx : (m.port p).rx = some f) (hcharge : f.charge = some blocks)
      (dispatched : Moves (m.onPort p (Port.makeResident frame blocks)) n)
      (after : Moves (n.onPort p Port.release) e) : Event c d e
  | replyEnded {e : Device} (p : PortId) (f : Frame) (sending : Bool) (choices : Nat)
      (hc : (d.arbiter p).chosen = some { frame := .origin .reply f, sending })
      (hdue : d.agent.resetDue = false)
      (he : e = arbitrate (startRequest (arbitrate { originSettled p d with choices }))
        ∨ e = arbitrate (arbitrate (startRequest { originSettled p d with choices }))) : Event c d e
  | alertEnded {e : Device} (p : PortId) (f : Frame) (sending : Bool) (choices : Nat)
      (hc : (d.arbiter p).chosen = some { frame := .origin .alert f, sending })
      (hpending : d.stats.alertPending = true)
      (he : e = arbitrate ((arbitrate { originSettled p d with choices }).placeOrigin .alert)
        ∨ e = arbitrate (arbitrate ({ originSettled p d with choices }.placeOrigin .alert))) :
      Event c d e
  | fullReset (high : Bool) (h : c = some (.fullReset high)) : Event c d (fullReset (!high) d)
  | stationReset (h : c = some .stationResetApplied) (hdue : d.agent.resetDue = true) :
      Event c d (stationReset d)
  | counterCleared {e : Device} (id : Byte) (i : Fin 82) (h : c = some (.counterRead id true))
      (after : Moves { d with stats := { d.stats with counters := d.stats.counters.set i 0 } } e) :
      Event c d e
  | recordEmptied {e : Device} (h : c = some (.faultRead true)) (after : Moves d.emptyRecord e) :
      Event c d e

/-- The parts of an event of the command `c`: the moves, and what an event is made of beside them. -/
inductive Shift (c : Option Instr) (d : Device) : Device → Prop
  | move {e : Device} (h : Move d e) : Shift c d e
  | becameResident (p : PortId) (f : RxFrame) (frame : Frame) (blocks : Nat)
      (hrx : (d.port p).rx = some f) (hcharge : f.charge = some blocks) :
      Shift c d (d.onPort p (Port.makeResident frame blocks))
  | released (p : PortId) : Shift c d (d.onPort p Port.release)
  | originSettled (p : PortId) (kind : OriginKind) (f : Frame) (sending : Bool)
      (hc : (d.arbiter p).chosen = some { frame := .origin kind f, sending }) :
      Shift c d (originSettled p d)
  | started : Shift c d (startRequest d)
  | alertPlaced : Shift c d (d.placeOrigin .alert)
  | fullReset (high : Bool) (h : c = some (.fullReset high)) : Shift c d (fullReset (!high) d)
  | stationReset (h : c = some .stationResetApplied) : Shift c d (stationReset d)
  | counterCleared (id : Byte) (i : Fin 82) (h : c = some (.counterRead id true)) :
      Shift c d { d with stats := { d.stats with counters := d.stats.counters.set i 0 } }
  | recordEmptied (h : c = some (.faultRead true)) : Shift c d d.emptyRecord

abbrev Shifts (c : Option Instr) : Device → Device → Prop := Relation.ReflTransGen (Shift c)

theorem Moves.shifts {c : Option Instr} {d e : Device} (h : Moves d e) : Shifts c d e :=
  Relation.ReflTransGen.mono (fun _ _ => Shift.move) _ _ h

theorem arbitrate_moves (d : Device) : Moves d (arbitrate d) :=
  (Move.chose .a).moves.tail (Move.chose .b)

theorem Event.shifts {c : Option Instr} {d e : Device} (h : Event c d e) : Shifts c d e := by
  have arb : ∀ d, Shifts c d (arbitrate d) := fun d => (arbitrate_moves d).shifts
  have drew : ∀ d n, Shift c d { d with choices := n } := fun d n => .move (.drew n)
  cases h with
  | moves h => exact h.shifts
  | arrived p f frame blocks before hrx hcharge dispatched after =>
    exact (((before.shifts.tail (.becameResident p f frame blocks hrx hcharge)).trans
      dispatched.shifts).tail (.released p)).trans after.shifts
  | replyEnded p f sending choices hc hdue he =>
    have settled := Relation.ReflTransGen.single (Shift.originSettled p _ f sending hc) |>.tail
      (drew _ choices)
    rcases he with rfl | rfl
    · exact ((settled.trans (arb _)).tail .started).trans (arb _)
    · exact ((settled.tail .started).trans (arb _)).trans (arb _)
  | alertEnded p f sending choices hc hpending he =>
    have settled := Relation.ReflTransGen.single (Shift.originSettled p _ f sending hc) |>.tail
      (drew _ choices)
    rcases he with rfl | rfl
    · exact ((settled.trans (arb _)).tail .alertPlaced).trans (arb _)
    · exact ((settled.tail .alertPlaced).trans (arb _)).trans (arb _)
  | fullReset high h => exact .single (.fullReset high h)
  | stationReset h hdue => exact .single (.stationReset h)
  | counterCleared id i h after => exact .trans (.single (.counterCleared id i h)) after.shifts
  | recordEmptied h after => exact .trans (.single (.recordEmptied h)) after.shifts

/-- What every move keeps, a run of moves keeps. -/
theorem Moves.keeps {P : Device → Prop} (hP : ∀ {d e}, Move d e → P d → P e) {d e : Device}
    (h : Moves d e) (hd : P d) : P e := by
  induction h with
  | refl => exact hd
  | tail _ hm ih => exact hP hm ih

theorem Shifts.keeps {P : Device → Prop} {c : Option Instr}
    (hP : ∀ {d e}, Shift c d e → P d → P e) {d e : Device} (h : Shifts c d e) (hd : P d) : P e := by
  induction h with
  | refl => exact hd
  | tail _ hm ih => exact hP hm ih

end Sys2Proof.Machine

/-! SUPPORT. Reception and dispatch as events: a symbol at a port, the end of a frame, and what a good frame
is given, are runs of moves and at most one arrival. -/

namespace Sys2Proof.Machine

/-! ## Runs of moves -/

theorem Move.onPort {p : PortId} {f : Port → Port} {d : Device}
    (h : PortMove (d.port p) (f (d.port p))) : Move d (d.onPort p f) := Move.port p _ h

theorem onLap_move {f : Lap → Lap} {d : Device}
    (h : (f d.lap).latch = d.lap.latch ∨ (f d.lap).latch = none) : Move d (d.onLap f) := .lap _ h

theorem setAccessFault_move (d : Device) : Move d d.setAccessFault := .lap _ (.inl rfl)

theorem setLaunchDone_move (d : Device) : Move d d.setLaunchDone := .lap _ (.inl rfl)

theorem setStarvation_move (d : Device) : Move d d.setStarvation := .lap _ (.inl rfl)

theorem setNodeChanged_move (d : Device) : Move d d.setNodeChanged := .lap _ (.inl rfl)

theorem onChannel_move {c : Fin 8} {f : Channel → Channel} {d : Device}
    (hheld : (f (d.channel c)).held = (d.channel c).held)
    (hcfg : (d.channel c).Configured → (f (d.channel c)).Configured) : Move d (d.onChannel c f) :=
  .channel c _ hheld hcfg

/-- An entry takes the place of another. -/
theorem onEntry_move {i : Fin 64} {f : Entry → Entry} {d : Device}
    (h : d.table.entries[i].WellFormed → (f d.table.entries[i]).WellFormed) :
    Move d (d.onEntry i f) := by
  refine .table (d.onEntry i f).table fun j hj => ?_
  rw [Device.entry_onEntry]
  split
  · rename_i hji
    subst hji
    exact h hj
  · exact hj

/-- An update that leaves a LOCAL slot LOCAL and its offered header alone. -/
theorem onSlot_move {k : SlotId} {f : Slot → Slot} {d : Device} (hk : (d.slot k).owner = .free)
    (hfree : (f (d.slot k)).owner = .free) (hoffer : (f (d.slot k)).offered = (d.slot k).offered) :
    Move d (d.onSlot k f) :=
  .slotFreed k (f (d.slot k)) (by simp [hk]) hfree (.inr ⟨hoffer, hk⟩)

theorem Moves.andArbitrate {d e : Device} (h : Moves d e) : Moves d (arbitrate e) :=
  h.trans (arbitrate_moves e)

theorem portError_moves (c : PortCounter) (k : FaultKind) (p : PortId) (h : Option Header)
    (d : Device) : Moves d (d.portError c k p h) :=
  (Move.counted _).moves.tail (Move.reported _)

theorem errorEvent_moves (c : PortCounter) (k : FaultKind) (p : PortId) (h : Option Header)
    (d : Device) : Moves d (errorEvent c k p h d) :=
  (portError_moves c k p h d).andArbitrate

/-- Unordered parts are a run of moves when each part is one from wherever `P` holds, and keeps `P`
from there on for the other. -/
theorem eitherOrder_moves {f g : Device → Device} {P Q : Device → Prop} {d : Device}
    (hf : ∀ e, P e → Moves e (f e)) (hg : ∀ e, Q e → Moves e (g e)) (hfQ : ∀ e, Q e → Q (f e))
    (hgP : ∀ e, P e → P (g e)) (hP : P { d with choices := d.choices + 1 })
    (hQ : Q { d with choices := d.choices + 1 }) : Moves d (eitherOrder f g d) := by
  have drawn : Moves d { d with choices := d.choices + 1 } := (Move.drew _).moves
  rcases eitherOrder_cases f g d with e | e <;> rw [e]
  · exact (drawn.trans (hf _ hP)).trans (hg _ (hfQ _ hQ))
  · exact (drawn.trans (hg _ hQ)).trans (hf _ (hgP _ hP))

/-! ## Positions and ends of a frame (R28 to R33) -/

theorem closeFrame_move {p : PortId} {f : RxFrame} {d : Device} (h : (d.port p).rx = some f) :
    Move d (closeFrame p f d) := by
  refine Move.onPort ?_
  cases hc : f.charge with
  | none => exact .settled f h hc
  | some n => exact .closed f h (by simp [hc])

theorem closeJudged_move {p : PortId} {f : RxFrame} {d : Device} (h : (d.port p).rx = some f) :
    Move d (closeJudged p f d) := by
  cases hj : f.judged with
  | unjudged => simp only [closeJudged, hj]; exact closeFrame_move h
  | formatError => simp only [closeJudged, hj]; exact closeFrame_move h
  | creditViolation => simp only [closeJudged, hj]; exact Move.onPort (.forgotten f h hj)

theorem closeOutOfPlace_moves (p : PortId) (d : Device) : Moves d (closeOutOfPlace p d) := by
  unfold closeOutOfPlace
  split
  · exact .refl
  · rename_i f hrx
    split
    · exact (closeFrame_move hrx).moves.trans (errorEvent_moves _ _ _ _ _)
    · exact (closeJudged_move hrx).moves

@[simp] theorem closeFrame_online (p : PortId) (f : RxFrame) (d : Device) :
    ((closeFrame p f d).port p).online = (d.port p).online := by
  rw [closeFrame, Device.port_onPort_self]
  cases f.charge <;> rfl

@[simp] theorem closeFrame_rx (p : PortId) (f : RxFrame) (d : Device) :
    ((closeFrame p f d).port p).rx = none := by
  rw [closeFrame, Device.port_onPort_self]
  cases f.charge <;> rfl

/-- A frame closed out of place leaves its ONLINE port between frames. -/
theorem closeOutOfPlace_port (p : PortId) (d : Device) :
    ((closeOutOfPlace p d).port p).online = (d.port p).online
      ∧ ((closeOutOfPlace p d).port p).rx = none := by
  unfold closeOutOfPlace
  split
  · exact ⟨rfl, by assumption⟩
  · rename_i f _
    split
    · simp
    · unfold closeJudged
      cases f.judged with
      | creditViolation => rw [Device.port_onPort_self]; exact ⟨rfl, rfl⟩
      | formatError => simp
      | unjudged => simp

theorem judgeHeader_moves {p : PortId} {f : RxFrame} {b : Option Byte} {d : Device}
    (hrx : (d.port p).rx = some f) (h8 : (f.fill b).count = 8) :
    Moves d (judgeHeader p (f.fill b) d) := by
  have kept : Moves d (d.setRx p (f.fill b)) := (Move.onPort (.filled f b hrx)).moves
  unfold judgeHeader
  split
  · exact kept
  · split
    · exact kept
    · rename_i h _
      split
      · exact (Move.onPort (.misformed f b h hrx h8)).moves.trans (errorEvent_moves _ _ _ _ _)
      · split
        · refine Relation.ReflTransGen.trans ?_ (errorEvent_moves _ _ _ _ _)
          rw [Device.setRx, Device.onPort_onPort]
          exact (Move.onPort (.violated f b h hrx h8)).moves
        · rename_i hle
          rw [Device.setRx, Device.onPort_onPort]
          exact (Move.onPort (.charged f b h hrx h8 (not_lt.mp hle))).moves

theorem receivePosition_moves (p : PortId) (b : Option Byte) (d : Device) :
    Moves d (receivePosition p b d) := by
  unfold receivePosition
  split
  · exact .refl
  · rename_i f hrx
    dsimp only
    split
    · exact judgeHeader_moves hrx (by assumption)
    · exact (Move.onPort (.filled f b hrx)).moves

theorem receiveAbort_moves (p : PortId) (d : Device) : Moves d (receiveAbort p d) := by
  unfold receiveAbort
  split
  · exact .refl
  · rename_i f hrx
    split
    · exact (closeFrame_move hrx).moves.tail (Move.counted _)
    · exact (closeJudged_move hrx).moves

theorem receiveSof_moves {p : PortId} {d : Device} (hon : (d.port p).online = true) :
    Moves d (receiveSof p d) := by
  obtain ⟨honline, hrx⟩ := closeOutOfPlace_port p d
  have begun : Move (closeOutOfPlace p d) ((closeOutOfPlace p d).setRx p RxFrame.fresh) :=
    Move.onPort (.began (honline.trans hon) hrx)
  exact (closeOutOfPlace_moves p d).tail begun

theorem receiveCredit_moves {p : PortId} {d : Device} (n : Nat) (hon : (d.port p).online = true) :
    Moves d (receiveCredit p n d) := by
  unfold receiveCredit
  split
  · exact (Move.onPort (.overran hon)).moves.trans (errorEvent_moves _ _ _ _ _)
  · rename_i h
    exact (Move.onPort (.credited n hon (not_lt.mp h))).moves

/-! ## The link (R16 to R22) -/

theorem linkDrop_moves {p : PortId} {d : Device} (hon : (d.port p).online = true) :
    Moves d (linkDrop p d) := by
  obtain ⟨m, hegress, hport, he⟩ := linkDrop_drops p d
  have down : Move d m :=
    .wentDown p d.enableB .seeking false .between m hon (.inl ⟨rfl, rfl⟩) rfl hegress hport
  rw [he]
  exact Moves.andArbitrate ((down.moves.tail (.counted _)).tail (.reported _))

theorem loseSignal_moves (p : PortId) (d : Device) : Moves d (loseSignal p d) := by
  unfold loseSignal
  split
  · exact linkDrop_moves ((Port.online_eq_true_iff _).mpr (by assumption))
  · exact (Move.onPort (.readied false)).moves
  · exact .refl

theorem receiveSeek_moves (p : PortId) (d : Device) : Moves d (receiveSeek p d) := by
  unfold receiveSeek
  split
  · exact linkDrop_moves ((Port.online_eq_true_iff _).mpr (by assumption))
  · exact (Move.onPort (.readied true)).moves
  · exact .refl

theorem decodedSymbol_move (p : PortId) (d : Device) : Move d (decodedSymbol p d) :=
  Move.onPort .decoded

@[simp] theorem decodedSymbol_online (p : PortId) (d : Device) :
    ((decodedSymbol p d).port p).online = (d.port p).online := by
  rw [decodedSymbol, Device.port_onPort_self]; rfl

theorem onlineSymbol_moves {p : PortId} {f : Device → Device} {d : Device}
    (hf : ∀ e, (e.port p).online = true → Moves e (f e)) : Moves d (onlineSymbol p f d) := by
  unfold onlineSymbol
  split
  · rename_i hon
    exact (decodedSymbol_move p d).moves.trans (hf _ (by simpa using hon))
  · exact .refl

theorem receiveReady_moves (p : PortId) (d : Device) : Moves d (receiveReady p d) := by
  unfold receiveReady
  split
  · exact onlineSymbol_moves fun e _ => closeOutOfPlace_moves p e
  · rename_i hseek
    split
    · exact (Move.wentOnline p hseek).moves.andArbitrate
    · exact (Move.onPort (.readied true)).moves
  · exact .refl

theorem symbolError_moves (p : PortId) (d : Device) : Moves d (symbolError p d) := by
  unfold symbolError
  split
  · rename_i hon
    split
    · exact linkDrop_moves hon
    · exact (Move.onPort (.erred (by omega))).moves.trans (receivePosition_moves p none _)
  · exact .refl

theorem disableB_moves (d : Device) : Moves d (disableB d) := by
  cases hlink : d.ports.b.link with
  | offline => exact (Move.disabled (by simp [Port.online, hlink])).moves
  | seeking => exact (Move.disabled (by simp [Port.online, hlink])).moves
  | online =>
    let f := fun P : Port => { P.closeAccount with link := .offline, tx := abortTransmission P.tx }
    have he : disableB d = egressDown .b ({ d with enableB := false }.onPort .b f) := by
      simp only [disableB, hlink]; rfl
    have hdown : (({ d with enableB := false }.onPort .b f).port .b).online = false := by
      rw [Device.port_onPort_self]; rfl
    have htx : (abortTransmission (d.port .b).tx).isSending = false := by
      cases (d.port .b).tx <;> rfl
    rw [he]
    refine (Move.wentDown .b false .offline (d.port .b).readySent
      (abortTransmission (d.port .b).tx) _ ((Port.online_eq_true_iff _).mpr hlink)
      (.inr ⟨rfl, rfl, rfl⟩) htx (egressDown_empties hdown).ofPort ?_).moves
    rw [egressDown_port, Device.port_onPort_self]
    rfl

/-! ## What a good frame is given (R57 to R63, R81 to R86, R122, R148 to R152) -/

theorem Port.Uncaptured.beginForward {key : Nat} {P : Port} (h : P.Uncaptured key) (k : Nat) :
    (P.mapResidents (beginForwardOf k)).Uncaptured key := by
  obtain ⟨r, hr, hkey, hfree⟩ := h
  refine ⟨_, List.mem_map_of_mem hr, ?_⟩
  unfold beginForwardOf
  split <;> exact ⟨hkey, hfree⟩

theorem Port.Unforwarded.beginCapture {key : Nat} {P : Port} (h : P.Unforwarded key) (k : Nat) :
    (P.mapResidents (beginCaptureOf k)).Unforwarded key := by
  obtain ⟨r, hr, hkey, hfree⟩ := h
  refine ⟨_, List.mem_map_of_mem hr, ?_⟩
  unfold beginCaptureOf
  split <;> exact ⟨hkey, hfree⟩

theorem Device.port_of_ports {d e : Device} (h : e.ports = d.ports) (p : PortId) :
    e.port p = d.port p := by rw [Device.port, h]; rfl

@[simp] theorem Device.portError_ports (c : PortCounter) (k : FaultKind) (p : PortId)
    (h : Option Header) (d : Device) : (d.portError c k p h).ports = d.ports := by
  rw [Device.portError, Device.report_ports, Device.countPort, Device.count_ports]

theorem forwardPart_uncaptured {p : PortId} {k key : Nat} {d : Device} (h : Header) (label : Half)
    (hc : (d.port p).Uncaptured key) : ((forwardPart p k h label d).port p).Uncaptured key := by
  rcases forwardPart_cases p k h label d with e | e | e <;> rw [e]
  · rwa [Device.port_of_ports (Device.portError_ports _ _ _ _ _)]
  · rwa [Device.port_of_ports (Device.portError_ports _ _ _ _ _)]
  · rw [makeReference, Device.port_onArbiter, Device.port_onPort_self]
    exact hc.beginForward k

@[simp] theorem captureNoBuffer_ports (p : PortId) (h : Header) (ch : Fin 8) (d : Device) :
    (captureNoBuffer p h ch d).ports = d.ports := by
  simp [captureNoBuffer, Device.countChannel]

theorem capturePart_unforwarded {p : PortId} {k key : Nat} {d : Device} (h : Header)
    (entry : Fin 64) (ch : Fin 8) (hf : (d.port p).Unforwarded key) :
    ((capturePart p k h entry ch d).port p).Unforwarded key := by
  rcases capturePart_cases p k h entry ch d with ⟨_, e⟩ | e | ⟨_, _, e⟩ <;> rw [e]
  · exact hf
  · rwa [Device.port_of_ports (captureNoBuffer_ports _ _ _ _)]
  · rw [captureAccept_port, if_pos rfl]
    exact hf.beginCapture k

theorem forwardPart_moves {p : PortId} {key : Nat} {d : Device} (h : Header) (label : Half)
    (hf : (d.port p).Unforwarded key) : Moves d (forwardPart p key h label d) := by
  unfold forwardPart
  split
  · exact portError_moves _ _ _ _ _
  · split
    · exact portError_moves _ _ _ _ _
    · rename_i hon
      exact (Move.referred p key h label none hf (by simpa using hon)).moves

theorem captureNoBuffer_moves (p : PortId) (h : Header) (ch : Fin 8) (d : Device) :
    Moves d (captureNoBuffer p h ch d) := by
  have starved : Move (d.countChannel ch .noBuffer) ((d.countChannel ch .noBuffer).onChannel ch
      fun c => { c with starved := true }) := onChannel_move rfl id
  exact (((Move.counted _).moves.tail starved).tail (setStarvation_move _)).tail (.reported _)

theorem capturePart_moves {p : PortId} {key : Nat} {d : Device} (h : Header) (entry : Fin 64)
    (ch : Fin 8) (hc : (d.port p).Uncaptured key) :
    Moves d (capturePart p key h entry ch d) := by
  unfold capturePart
  dsimp only
  split
  · exact (Move.counted _).moves
  · split
    · exact (Move.counted _).moves
    · split
      · exact (Move.counted _).moves
      · split
        · exact captureNoBuffer_moves p h ch d
        · rename_i b rest hfree
          exact (Move.captured p key h entry ch b rest hfree hc).moves

theorem actOn_moves {p : PortId} {key : Nat} {d : Device} (h : Header) (i : Fin 64) (e : Entry)
    (hf : (d.port p).Unforwarded key) (hc : (d.port p).Uncaptured key) :
    Moves d (actOn p key h i e d) := by
  cases ha : e.action with
  | forward => rw [actOn_forward ha]; exact forwardPart_moves h _ hf
  | capture => rw [actOn_capture ha]; exact capturePart_moves h i _ hc
  | copy =>
    rw [actOn_copy ha]
    refine eitherOrder_moves (P := fun x => (x.port p).Unforwarded key)
      (Q := fun x => (x.port p).Uncaptured key)
      (fun x hx => (forwardPart_moves h _ hx).andArbitrate)
      (fun x hx => (capturePart_moves h i _ hx).andArbitrate) (fun x hx => ?_) (fun x hx => ?_) hf hc
    · rw [arbitrate_port]; exact forwardPart_uncaptured h _ hx
    · rw [arbitrate_port]; exact capturePart_unforwarded h i _ hx
  | discard => rw [actOn_discard ha]; exact (Move.counted _).moves

theorem defaultAction_moves {p : PortId} {key : Nat} {d : Device} (h : Header)
    (hf : (d.port p).Unforwarded key) : Moves d (defaultAction p key h d) := by
  cases hd : d.table.discards p with
  | true =>
    rw [defaultAction_of_discards hd]
    exact (Move.counted _).moves.tail (.counted _)
  | false =>
    rw [defaultAction_of_not_discards hd]
    exact (Move.counted _).moves.trans (forwardPart_moves h _ hf)

theorem steer_moves {p : PortId} {key : Nat} {d : Device} (h : Header)
    (hf : (d.port p).Unforwarded key) (hc : (d.port p).Uncaptured key) :
    Moves d (steer p key h d) := by
  cases hw : d.table.winner p h.label with
  | none => rw [steer_of_no_winner hw]; exact defaultAction_moves h hf
  | some i =>
    rw [steer_of_winner hw]
    exact (onEntry_move fun hi => hi).moves.trans (actOn_moves h i _ hf hc)

/-- Starting a request reaches the origin list, the agent and the counters alone. -/
theorem startRequest_frame (d : Device) :
    startRequest d = { d with origin := (startRequest d).origin, agent := (startRequest d).agent
                              stats := { d.stats with
                                counters := (startRequest d).stats.counters } } := by
  unfold startRequest runRequest answerRequest replayRequest
  dsimp only
  repeat' (first | rfl | split)

@[simp] theorem startRequest_ports (d : Device) : (startRequest d).ports = d.ports := by
  rw [startRequest_frame]

@[simp] theorem offerCopy_ports (h : Header) (q : RequestCopy) (d : Device) :
    (offerCopy h q d).ports = d.ports := by
  rcases offerCopy_cases h q d with ⟨_, e⟩ | ⟨_, e⟩ <;> simp [e]

theorem dispatchRequest_moves {key : Nat} {d : Device} (h : Header) (payload : List Byte)
    (hf : (d.port .a).Unforwarded key) : Moves d (dispatchRequest key h payload d) := by
  unfold dispatchRequest
  split
  · exact (Move.copyOffered _ _).moves
  · split
    · refine eitherOrder_moves (P := fun x => (x.port .a).Unforwarded key) (Q := fun _ => True)
        (fun x hx => (forwardPart_moves h _ hx).andArbitrate)
        (fun x _ => (Move.copyOffered h _).moves.andArbitrate) (fun _ _ => trivial)
        (fun x hx => ?_) hf trivial
      rw [arbitrate_port, Device.port_of_ports (offerCopy_ports h _ x)]
      exact hx
    · exact forwardPart_moves h _ hf

theorem passEnum_moves {key : Nat} {d : Device} (h : Header) (mode next : Byte)
    (hf : (d.port .a).Unforwarded key) : Moves d (passEnum key h mode next d) := by
  unfold passEnum
  split
  · exact portError_moves _ _ _ _ _
  · split
    · exact (Move.referred .a key h h.label (some next) hf (by assumption)).moves
    · exact (Move.enumReturned _).moves

theorem reportExhausted_unforwarded {key : Nat} {d : Device} (h : Header)
    (hf : (d.port .a).Unforwarded key) : ((reportExhausted h d).port .a).Unforwarded key := by
  rwa [reportExhausted, Device.port_of_ports (Device.report_ports _ d)]

theorem passExhausted_moves {key : Nat} {d : Device} (h : Header) (mode : Byte)
    (hf : (d.port .a).Unforwarded key) : Moves d (passExhausted key h mode d) := by
  unfold passExhausted
  split
  · refine eitherOrder_moves (P := fun _ => True) (Q := fun x => (x.port .a).Unforwarded key)
      (fun x _ => (Move.reported _).moves.andArbitrate)
      (fun x hx => (passEnum_moves h mode 63 hx).andArbitrate) (fun x hx => ?_)
      (fun _ _ => trivial) trivial hf
    rw [arbitrate_port]
    exact reportExhausted_unforwarded h hx
  · exact (Move.reported _).moves.trans
      (passEnum_moves h mode 63 (reportExhausted_unforwarded h hf))

theorem enumPayload_eq_some {payload : List Byte} {mode next : Byte}
    (h : enumPayload payload = some (mode, next)) : 1 ≤ next.toNat ∧ next.toNat ≤ 63 := by
  unfold enumPayload at h
  split at h
  · split at h
    · rename_i hrange
      obtain ⟨-, hlow, hhigh⟩ := hrange
      cases h
      exact ⟨hlow, hhigh⟩
    · cases h
  · cases h

theorem takeNumber_moves {next : Byte} (hlow : 1 ≤ next.toNat) (hhigh : next.toNat ≤ 62)
    (d : Device) : Moves d (takeNumber next d) := by
  have hnode : (next.setWidth 6).toNat = next.toNat := by
    rw [BitVec.toNat_setWidth]; omega
  exact ((Move.node (next.setWidth 6) (by omega) (by omega)).moves.tail .storeCleared).tail
    (setNodeChanged_move _)

theorem dispatchEnum_moves {key : Nat} {d : Device} (h : Header) (payload : List Byte)
    (hf : (d.port .a).Unforwarded key) : Moves d (dispatchEnum key h payload d) := by
  unfold dispatchEnum
  split
  · exact portError_moves _ _ _ _ _
  · rename_i mode next hpay
    obtain ⟨hlow, hhigh⟩ := enumPayload_eq_some hpay
    split
    · split
      · exact passExhausted_moves h mode hf
      · rename_i hne
        have hne' : next.toNat ≠ 63 := fun e => hne (BitVec.eq_of_toNat_eq e)
        exact (takeNumber_moves hlow (by omega) d).trans (passEnum_moves h mode _ hf)
    · exact passEnum_moves h mode next hf

/-- A frame that is resident without a use is dispatched by a run of moves. -/
theorem dispatch_moves {p : PortId} {key : Nat} {d : Device} (f : Frame)
    (hf : (d.port p).Unforwarded key) (hc : (d.port p).Uncaptured key) :
    Moves d (dispatch p key f d) := by
  unfold dispatch
  split
  · exact steer_moves _ hf hc
  · exact dispatchRequest_moves _ _ hf
  · exact portError_moves _ _ _ _ _
  · exact dispatchEnum_moves _ _ hf
  · exact portError_moves _ _ _ _ _
  · exact portError_moves _ _ _ _ _
  · exact forwardPart_moves _ _ hf
  · exact portError_moves _ _ _ _ _
  · exact forwardPart_moves _ _ hf
  · exact portError_moves _ _ _ _ _
  · exact forwardPart_moves _ _ hf
  · exact .refl

/-- The frame just becameResident has no use. -/
theorem Port.makeResident_unused (frame : Frame) (blocks : Nat) (P : Port) :
    (P.makeResident frame blocks).Unforwarded P.freshKey ∧ (P.makeResident frame blocks).Uncaptured P.freshKey := by
  have hmem : (⟨P.freshKey, frame, blocks, false, false⟩ : Resident)
      ∈ (P.makeResident frame blocks).residents := by simp [Port.makeResident]
  exact ⟨⟨_, hmem, rfl, rfl⟩, ⟨_, hmem, rfl, rfl⟩⟩

theorem arrive_event {c : Option Instr} {p : PortId} {f : RxFrame} {h : Header} {blocks : Nat}
    {d m : Device} (payload : List Byte) (before : Moves d m) (hrx : (m.port p).rx = some f)
    (hcharge : f.charge = some blocks) : Event c d (arrive p h blocks payload m) := by
  let counted := m.countPort p .framesIn
  let frame : Frame := { header := h, payload }
  obtain ⟨hf, hc⟩ := Port.makeResident_unused frame blocks (counted.port p)
  rw [← Device.port_onPort_self p (Port.makeResident frame blocks) counted] at hf hc
  exact .arrived p f frame blocks (before.tail (.counted _)) hrx hcharge (dispatch_moves frame hf hc)
    (arbitrate_moves _)

theorem endAtEof_event {c : Option Instr} {p : PortId} {f : RxFrame} {d m : Device}
    (before : Moves d m) (hrx : (m.port p).rx = some f) : Event c d (endAtEof p f m) := by
  have failed : ∀ c k, Moves d (errorEvent c k p f.header (closeFrame p f m)) := fun c k =>
    (before.tail (closeFrame_move hrx)).trans (errorEvent_moves c k p f.header _)
  unfold endAtEof
  split
  · exact .moves (failed _ _)
  · split
    · split
      · exact arrive_event _ before hrx (by assumption)
      · exact .moves (failed _ _)
    · exact .moves (failed _ _)

theorem receiveEof_event {c : Option Instr} {d m : Device} (p : PortId) (before : Moves d m) :
    Event c d (receiveEof p m) := by
  unfold receiveEof
  split
  · exact .moves before
  · rename_i f hrx
    split
    · exact endAtEof_event before hrx
    · exact .moves (before.tail (closeJudged_move hrx))

end Sys2Proof.Machine

/-! SUPPORT. Transmission, management and the local access port as events, and with them every step: the
case analysis over the commands that the invariants' proofs do not repeat. -/

namespace Sys2Proof.Machine

/-! ## Transmission (R24, R26, R36, R72, R74) -/

theorem sendCredit_moves (p : PortId) (d : Device) : Moves d (sendCredit p d) := by
  unfold sendCredit
  split
  · rename_i h
    exact (Move.onPort (.announced _ h.1)).moves
  · exact .refl

theorem sendSof_moves (p : PortId) (d : Device) : Moves d (sendSof p d) := by
  unfold sendSof
  split
  · exact .refl
  · rename_i c hc
    dsimp only
    split
    · exact .refl
    · split
      · rename_i h
        exact (Move.sofSent p c _ _ hc h.1).moves
      · exact .refl

theorem sendData_moves (p : PortId) (d : Device) : Moves d (sendData p d) := by
  unfold sendData
  split
  · rename_i htx
    exact (Move.onPort (.sent _ _ (by rw [htx]; rfl))).moves
  · rename_i htx
    exact (Move.onPort (.sent _ _ (by rw [htx]; rfl))).moves
  all_goals exact .refl

theorem sendAbort_moves (p : PortId) (d : Device) : Moves d (sendAbort p d) := by
  unfold sendAbort
  split
  · rename_i htx
    exact (Move.onPort (.sent _ _ (by rw [htx]; rfl))).moves
  all_goals exact .refl

theorem sendEof_event (c : Option Instr) (p : PortId) (d : Device) : Event c d (sendEof p d) := by
  unfold sendEof
  split
  · rename_i n x _ hx
    obtain ⟨frame, sending⟩ := x
    split
    · exact .moves .refl
    · rename_i hwaits
      show Event c d (arbitrate (finishFrame p frame (eofSent p d)))
      cases frame with
      | forward ref => exact .moves (Move.forwardEnded p ref sending hx).moves.andArbitrate
      | launch k => exact .moves (Move.launchEnded p k sending hx).moves.andArbitrate
      | origin kind f =>
        show Event c d (arbitrate (informOrigin kind (originSettled p d)))
        cases kind with
        | reply =>
          refine .replyEnded p f sending (d.choices + 1) hx (Bool.eq_false_iff.mpr hwaits) ?_
          exact (eitherOrder_cases _ _ _).imp (congrArg arbitrate) (congrArg arbitrate)
        | enumRet =>
          exact .moves (Move.originEnded p .enumRet f sending hx (.inl rfl)).moves.andArbitrate
        | alert =>
          cases hpending : d.stats.alertPending with
          | false =>
            have hinform : informOrigin .alert (originSettled p d) = originSettled p d :=
              if_neg (Bool.eq_false_iff.mp hpending)
            rw [hinform]
            exact .moves
              (Move.originEnded p .alert f sending hx (.inr ⟨rfl, hpending⟩)).moves.andArbitrate
          | true =>
            have hinform : informOrigin .alert (originSettled p d) =
                eitherOrder arbitrate (Device.placeOrigin .alert) (originSettled p d) :=
              if_pos hpending
            rw [hinform]
            refine .alertEnded p f sending (d.choices + 1) hx hpending ?_
            exact (eitherOrder_cases _ _ _).imp (congrArg arbitrate) (congrArg arbitrate)
  · exact .moves .refl

/-! ## Management operations (R129 to R146) -/

@[simp] theorem disableB_agent (d : Device) : (disableB d).agent = d.agent := by
  unfold disableB
  dsimp only
  split
  · have hdown := egressDown_empties (p := .b) (d := { d with enableB := false }.onPort .b fun P =>
      { P.closeAccount with link := .offline, tx := abortTransmission P.tx })
      (by rw [Device.port_onPort_self]; rfl)
    obtain ⟨-, -, -, -, -, -, -, -, -, hrest⟩ := hdown
    rw [hrest]
    rfl
  · rfl
  · rfl

@[simp] theorem enableBOn_agent (d : Device) : (enableBOn d).agent = d.agent := by
  unfold enableBOn
  dsimp only
  split <;> rfl

/-- The effect of an operation is a run of moves that leaves the running batch. -/
def OpOutcome.MovesFrom (d : Device) (r : OpOutcome) : Prop :=
  Moves d r.dev ∧ r.dev.agent.batch = d.agent.batch

theorem failsWith_movesFrom (st : OpStatus) (d : Device) : (failsWith st d).MovesFrom d :=
  ⟨.refl, rfl⟩

theorem yieldsData_movesFrom (data : List Byte) (d : Device) : (yieldsData data d).MovesFrom d :=
  ⟨.refl, rfl⟩

theorem Move.yieldsData {d e : Device} (h : Move d e) (hb : e.agent.batch = d.agent.batch)
    (data : List Byte) : (yieldsData data e).MovesFrom d := ⟨h.moves, hb⟩

theorem runOperation_moves {o : Op} {f : Device → OpOutcome} {d : Device}
    (h : (f d).MovesFrom d) : Moves d (runOperation o f d) := by
  obtain ⟨hmoves, hbatch⟩ := h
  unfold runOperation
  split
  · exact .refl
  · rename_i b hb
    split
    · exact hmoves.tail (.batch _ (by rw [hbatch, hb]; simp))
    · exact .refl

theorem writeControl_moves {w : ControlWord} {v : Word} (hlegal : fieldsLegal w v = true)
    (d : Device) (data : Device → List Byte) :
    (yieldsData (data (writeControl w v d)) (writeControl w v d)).MovesFrom d := by
  cases w with
  | portCtl =>
    show (yieldsData (data (writeEnableB _ d)) (writeEnableB _ d)).MovesFrom d
    unfold writeEnableB
    split
    · exact Move.enabled.yieldsData (by simp) _
    · exact ⟨disableB_moves d, by simp [yieldsData]⟩
  | defaultAction =>
    exact Move.yieldsData (e := writeControl .defaultAction v d) (.table _ fun _ hi => hi) rfl _
  | egressCtl => exact Move.yieldsData (.egressCtl _ (by simpa [fieldsLegal] using hlegal)) rfl _
  | faultMask => exact Move.yieldsData (.statsCtl _ _) rfl _
  | alertCtl => exact Move.yieldsData (.statsCtl _ _) rfl _
  | channelCfg c =>
    refine ⟨Move.moves ?_, rfl⟩
    show Move d (writeControl (.channelCfg c) v d)
    rw [writeControl]
    refine onChannel_move rfl fun _ => ?_
    simp only [fieldsLegal, Bool.and_eq_true, decide_eq_true_eq] at hlegal
    obtain ⟨⟨⟨⟨hclip, hclipLow⟩, hclipHigh⟩, hquotaLow⟩, hquotaHigh⟩ := hlegal
    exact ⟨hquotaLow, hquotaHigh, hclipLow, hclipHigh, hclip⟩
  | _ => exact ⟨.refl, rfl⟩

theorem opReadWord_moves (address : Byte) (d : Device) :
    (opReadWord address d).MovesFrom d := by
  unfold opReadWord
  split
  · exact failsWith_movesFrom _ d
  · exact yieldsData_movesFrom _ d

theorem opWriteWord_moves (address : Byte) (v : Word) (d : Device) :
    (opWriteWord address v d).MovesFrom d := by
  unfold opWriteWord
  split
  · exact failsWith_movesFrom _ d
  · split
    · exact failsWith_movesFrom _ d
    · split
      · exact failsWith_movesFrom _ d
      · rename_i hlegal
        exact writeControl_moves (by simpa using hlegal) d fun _ => []

theorem opModifyWord_moves (address : Byte) (v mask : Word) (d : Device) :
    (opModifyWord address v mask d).MovesFrom d := by
  unfold opModifyWord
  split
  · exact failsWith_movesFrom _ d
  · rename_i w _
    dsimp only
    split
    · exact failsWith_movesFrom _ d
    · split
      · exact failsWith_movesFrom _ d
      · rename_i hlegal
        exact writeControl_moves (by simpa using hlegal) d fun e => wordBytes (readControl e w)

/-- R39: an entry that a form describes is well formed. -/
theorem entryOf_wellFormed {f : EntryForm} {e : Entry} (h : entryOf f = some e) : e.WellFormed := by
  have hgood : ¬EntryForm.Bad f := fun hbad => by rw [entryOf_of_bad hbad] at h; cases h
  obtain ⟨e', he', hfields⟩ := entryOf_of_not_bad hgood
  obtain rfl : e' = e := Option.some.inj (he'.symm.trans h)
  obtain ⟨-, hbase, horder, -, -, htranslate, hnew, -, -⟩ := hfields
  simp only [EntryForm.Bad, not_or, not_and, not_not] at hgood
  obtain ⟨-, halign, hnewAlign, -⟩ := hgood
  unfold Entry.WellFormed
  rw [aligned_iff, aligned_iff, hbase, horder, htranslate, hnew]
  exact ⟨halign, hnewAlign⟩

theorem opTableWrite_moves (index : Byte) (form : EntryForm) (d : Device) :
    (opTableWrite index form d).MovesFrom d := by
  unfold opTableWrite
  split
  · split
    · exact failsWith_movesFrom _ d
    · rename_i e he
      exact (onEntry_move fun _ => entryOf_wellFormed he).yieldsData rfl _
  · exact failsWith_movesFrom _ d

theorem opTableRead_moves (index : Byte) (clear : Bool) (d : Device) :
    (opTableRead index clear d).MovesFrom d := by
  unfold opTableRead
  split
  · dsimp only
    cases clear with
    | true => exact Move.yieldsData (onEntry_move (f := fun e => { e with hits := 0 }) fun hi => hi) rfl _
    | false => exact yieldsData_movesFrom _ d
  · exact failsWith_movesFrom _ d

theorem opTableInvalidate_moves (first count : Byte) (d : Device) :
    (opTableInvalidate first count d).MovesFrom d := by
  unfold opTableInvalidate
  split
  · refine Move.yieldsData (.table _ fun i hi => ?_) rfl _
    rw [invalidateRange_entry]
    split
    · exact hi
    · exact hi
  · exact failsWith_movesFrom _ d

theorem opSeqReset_moves (channel : Byte) (d : Device) : (opSeqReset channel d).MovesFrom d := by
  unfold opSeqReset
  split
  · exact Move.yieldsData (onChannel_move rfl id) rfl _
  · exact failsWith_movesFrom _ d

theorem opSetNode_moves (number : Byte) (d : Device) : (opSetNode number d).MovesFrom d := by
  unfold opSetNode
  split
  · rename_i h
    have hnode : (number.setWidth 6).toNat = number.toNat := by rw [BitVec.toNat_setWidth]; omega
    refine ⟨(Move.node (number.setWidth 6) ?_ ?_).moves.tail (setNodeChanged_move _), rfl⟩
    · omega
    · omega
  · exact failsWith_movesFrom _ d

theorem opEcho_moves (data : List Byte) (d : Device) : (opEcho data d).MovesFrom d := by
  unfold opEcho
  split
  · exact yieldsData_movesFrom _ d
  · exact failsWith_movesFrom _ d

/-- COUNTER_READ clears a counter, or is a run of moves. -/
theorem counterRead_event (id : Byte) (clear : Bool) (d : Device) :
    Event (some (.counterRead id clear)) d
      (runOperation (.counterRead id clear) (opCounterRead id clear) d) := by
  by_cases hclear : clear = true ∧ id.toNat < 82
  · obtain ⟨rfl, hid⟩ := hclear
    rw [runOperation]
    split
    · exact .moves .refl
    · rename_i b hb
      split
      · rw [opCounterRead_of_id (i := ⟨id.toNat, hid⟩) true d rfl]
        exact .counterCleared id ⟨id.toNat, hid⟩ rfl (Move.batch _ (by simp [hb])).moves
      · exact .moves .refl
  · refine .moves (runOperation_moves ?_)
    unfold opCounterRead
    split
    · rename_i hid
      rw [if_neg fun hc => hclear ⟨hc, hid⟩]
      exact yieldsData_movesFrom _ d
    · exact failsWith_movesFrom _ d

@[simp] theorem Device.emptyRecord_agent (d : Device) : d.emptyRecord.agent = d.agent := by
  unfold Device.emptyRecord Device.withdrawAlert
  split <;> rfl

/-- FAULT_READ empties the record, or is a run of moves. -/
theorem faultRead_event (clear : Bool) (d : Device) :
    Event (some (.faultRead clear)) d (runOperation (.faultRead clear) (opFaultRead clear) d) := by
  by_cases hclear : clear = true ∧ d.stats.record.isSome = true
  · obtain ⟨rfl, hfilled⟩ := hclear
    rw [runOperation]
    split
    · exact .moves .refl
    · rename_i b hb
      split
      · have hop : opFaultRead true d =
            yieldsData (faultForm d.stats.record d.stats.overflow) d.emptyRecord := by
          simp [opFaultRead, hfilled]
        rw [hop]
        exact .recordEmptied rfl (Move.batch _ (by simp [hb])).moves
      · exact .moves .refl
  · have hop : opFaultRead clear d = yieldsData (faultForm d.stats.record d.stats.overflow) d := by
      rw [opFaultRead, if_neg (by simpa using hclear)]
    exact .moves (runOperation_moves (hop ▸ yieldsData_movesFrom _ d))

theorem endBatch_moves (d : Device) : Moves d (endBatch d) := by
  unfold endBatch
  split
  · rename_i b q rest hb hq
    split
    · rename_i hover
      have hdue : d.agent.resetDue = false := by simpa using (Bool.and_eq_true_iff.mp hover).2
      exact (Move.batchEnded b q rest hb hq hdue).moves.andArbitrate
    · exact .refl
  · exact .refl

/-! ## The local access port (R171 to R187) -/

theorem lapWord_moves {c : LapCommand} {a : Half} {f : Device → Device} {d : Device}
    (h : Moves d (f d)) : Moves d (lapWord c a f d) := by
  rcases lapWord_cases c a f d with e | e | e
  · rw [e]
  · rwa [e]
  · rw [e]
    exact h.tail (onLap_move (.inl rfl))

theorem lapWrite_moves {a : Half} {f : Device → Device} {d : Device} (h : Moves d (f d)) :
    Moves d (lapWrite a f d) :=
  lapWord_moves (h.tail (onLap_move (.inl rfl)))

theorem lapReadAt_moves {a : Half} {d : Device} (h : Moves d (lapRead (lapWordAt a) d).2) :
    Moves d (lapReadAt a d) :=
  lapWord_moves (h.tail (onLap_move (.inl rfl)))

theorem lapRead_moves (w : LapWord) (d : Device) : Moves d (lapRead w d).2 := by
  unfold lapRead
  split
  case h_5 => exact Move.noticeTaken.moves
  case h_10 =>
    unfold readBufData
    split
    · exact .refl
    · exact (setAccessFault_move d).moves
  all_goals exact .refl

theorem localReset_moves (d : Device) : Moves d (localReset d) := by
  obtain ⟨m, he, hm⟩ := localReset_resets d
  rw [he]
  exact (Move.locallyReset m hm).moves.andArbitrate

theorem ignoreRest_move (d : Device) : Move d (ignoreRest d) := onLap_move (.inl rfl)

theorem writeLocalReset_moves (d : Device) : Moves d (writeLocalReset d) := by
  have write : Moves d (lapWrite 0x0004 localReset d) := lapWrite_moves (localReset_moves d)
  unfold writeLocalReset
  split
  · exact .refl
  · split
    · split
      · exact .refl
      · exact write
    · exact write.tail (ignoreRest_move _)
    · split
      · exact write.tail (ignoreRest_move _)
      · exact .refl
    · exact .refl

theorem lrstLow_moves (d : Device) : Moves d (lrstLow d) := by
  unfold lrstLow
  split
  · exact .refl
  · refine unlessHeld_induct (P := fun e => Moves d e) (Move.pins _).moves ?_
    have ended : ∀ e : Device, Moves e
        (localReset { e with lap := { e.lap with context := .idle, ldo := 0 } }) := fun e =>
      (Move.lap { e.lap with context := .idle, ldo := 0 } (.inl rfl)).moves.trans (localReset_moves _)
    exact (Move.pins _).moves.trans (ended _)

theorem returnBuffer_moves (v : Word) (d : Device) : Moves d (returnBuffer v d) := by
  have refused : Moves d (arbitrate (refuseReturn v d)) := by
    have reported : Moves d ((d.count .returnRejects).report
        { kind := .returnReject, port := none, frame := none, channel := none, buffer := some v }) :=
      (Move.counted .returnRejects).moves.tail (.reported _)
    exact Moves.andArbitrate (reported.tail (setAccessFault_move _))
  unfold returnBuffer
  split
  · split
    · rename_i h
      exact (Move.returned _ h).moves
    · exact refused
  · exact refused

theorem selectBuffer_moves (v : Word) (d : Device) : Moves d (selectBuffer v d) := by
  unfold selectBuffer
  split
  · exact (onLap_move (.inl rfl)).moves
  · exact (setAccessFault_move d).moves

theorem selectSlot_moves (v : Word) (d : Device) : Moves d (selectSlot v d) := by
  unfold selectSlot
  split
  · exact (onLap_move (.inl rfl)).moves
  · exact (setAccessFault_move d).moves

theorem writeSlotHeader_moves (k : SlotId) (second : Bool) (v : Word) (d : Device) :
    Moves d (writeSlotHeader k second v d) := by
  unfold writeSlotHeader
  split
  · rename_i hk
    cases second with
    | true => exact (onSlot_move hk hk rfl).moves
    | false => exact (onSlot_move hk hk rfl).moves
  · exact (setAccessFault_move d).moves

theorem writeSlotData_moves (i : Byte) (v : Word) (d : Device) : Moves d (writeSlotData i v d) := by
  unfold writeSlotData
  dsimp only
  split
  · exact (Move.launchMem _ fun h => Memory.writeBytes_wf h _ _).moves
  · exact (setAccessFault_move d).moves

theorem slotHandover_moves (v : Word) (d : Device) : Moves d (slotHandover v d) := by
  unfold slotHandover
  split
  · exact (setAccessFault_move d).moves
  · split
    · rename_i k _ hk
      unfold handOver
      split
      · have refused : Move d (d.onSlot k fun s => { s with status := .badLength }) :=
          onSlot_move hk hk rfl
        exact refused.moves.tail (setLaunchDone_move _)
      · rename_i hlen
        exact (Move.handedOver k hk (not_lt.mp hlen)).moves.andArbitrate
    · exact (setAccessFault_move d).moves

theorem slotRecall_moves (v : Word) (d : Device) : Moves d (slotRecall v d) := by
  unfold slotRecall
  split
  · exact (setAccessFault_move d).moves
  · split
    · rename_i k _ hk
      have recalled : Move d (d.onSlot k fun s =>
          { s with owner := .free, status := .recalled, offered := none }) :=
        .slotFreed k { d.slot k with owner := .free, status := .recalled, offered := none }
          (by simp [hk]) rfl (.inl rfl)
      exact recalled.moves.tail (setLaunchDone_move _)
    · exact .refl

theorem badCommand_moves (code : Byte) (d : Device) : Moves d (badCommand code d) := by
  have refused : ∀ f : Lap → Lap, (∀ l, (f l).latch = l.latch) →
      Moves d (d.setAccessFault.onLap f) := fun f hf =>
    (setAccessFault_move d).moves.tail (onLap_move (.inl (hf _)))
  unfold badCommand
  split
  · exact .refl
  · split
    · split
      · exact .refl
      · exact refused _ fun _ => rfl
    · exact refused _ fun _ => rfl
    · exact .refl
    · exact .refl

theorem beginTransaction_moves (d : Device) : Moves d (beginTransaction d) := by
  unfold beginTransaction
  split
  · exact .refl
  · dsimp only
    split
    · exact (Move.pins _).moves
    · exact (Move.pins _).moves.tail (onLap_move (.inl rfl))

theorem endTransaction_moves (d : Device) : Moves d (endTransaction d) := by
  unfold endTransaction
  dsimp only
  split
  · exact (Move.pins _).moves
  · exact (Move.pins _).moves.tail (onLap_move (.inl rfl))

theorem execLapReadOnlyWrite_moves {address : Half} {v : Word} {s t : State}
    (h : execLapReadOnlyWrite address v s = .next t) : Moves s.dev t.dev := by
  have refused : Moves s.dev (lapWrite address Device.setAccessFault s.dev) :=
    lapWrite_moves (setAccessFault_move _).moves
  obtain rfl := onDevice_eq_next.mp h
  dsimp only
  split
  all_goals first
    | exact refused
    | exact .refl

/-! ## Every step is an event -/

theorem Event.ofUnlessHeld {c : Option Instr} {f : Device → Device} {d : Device}
    (h : Event c d (f d)) : Event c d (unlessHeld f d) :=
  unlessHeld_induct (P := Event c d) (.moves .refl) h

/-- The event of a command that is built with `unlessHeld`. -/
theorem Event.ofOnDevice {c : Option Instr} {f : Device → Device} {s t : State}
    (h : onDevice (unlessHeld f) s = .next t) (hf : Event c s.dev (f s.dev)) :
    Event c s.dev t.dev := by
  obtain rfl := onDevice_eq_next.mp h
  exact hf.ofUnlessHeld

theorem Moves.ofOnDevice {f : Device → Device} {s t : State} (h : onDevice f s = .next t)
    (hf : Moves s.dev (f s.dev)) : Moves s.dev t.dev := by
  obtain rfl := onDevice_eq_next.mp h
  exact hf

theorem onlineSymbol_event {c : Option Instr} {p : PortId} {f : Device → Device} {d : Device}
    (hf : ∀ e, Moves d e → Event c d (f e)) : Event c d (onlineSymbol p f d) := by
  unfold onlineSymbol
  split
  · exact hf _ (decodedSymbol_move p d).moves
  · exact .moves .refl

theorem rxCredit_moves (p : PortId) (n : Nat) (d : Device) :
    Moves d ((if 1 ≤ n ∧ n ≤ 63 then onlineSymbol p (receiveCredit p n) else symbolError p) d) := by
  split
  · exact onlineSymbol_moves fun e he => receiveCredit_moves n he
  · exact symbolError_moves p d

/-- Every command is an event of the part. -/
theorem exec_event {i : Instr} {s t : State} (h : exec i s = .next t) :
    Event (some i) s.dev t.dev := by
  have held : ∀ {f : Device → Device}, onDevice (unlessHeld f) s = .next t →
      Moves s.dev (f s.dev) → Event (some i) s.dev t.dev := fun h hf => .ofOnDevice h (.moves hf)
  have free : ∀ {f : Device → Device}, onDevice f s = .next t →
      Moves s.dev (f s.dev) → Event (some i) s.dev t.dev := fun h hf => .moves (.ofOnDevice h hf)
  cases i with
  | fullReset high => obtain rfl := onDevice_eq_next.mp h; exact .fullReset high rfl
  | resetRelease =>
    exact free (f := fun d => { d with pins := { d.pins with resetLow := false } }) h
      (Move.pins _).moves
  | lrstAssert => exact free h (lrstLow_moves _)
  | lrstRelease =>
    exact free (f := fun d => { d with pins := { d.pins with lrstLow := false } }) h
      (Move.pins _).moves
  | lossOfSignal p =>
    refine free (f := fun d => unlessHeld (loseSignal p) (d.setSignal p false)) h ?_
    exact unlessHeld_induct (P := Moves s.dev) (Move.pins _).moves
      ((Move.pins _).moves.trans (loseSignal_moves p _))
  | signalReturn p => exact free h (Move.pins _).moves
  | rxSeek p => exact held h (receiveSeek_moves p _)
  | rxReady p => exact held h (receiveReady_moves p _)
  | rxIdle p => exact held h (onlineSymbol_moves fun e _ => closeOutOfPlace_moves p e)
  | rxCredit p n => exact held h (rxCredit_moves p n _)
  | rxSof p => exact held h (onlineSymbol_moves fun e he => receiveSof_moves he)
  | rxDataSymbol p b => exact held h (onlineSymbol_moves fun e _ => receivePosition_moves p _ e)
  | rxEof p => exact .ofOnDevice h (onlineSymbol_event fun e he => receiveEof_event p he)
  | rxAbort p => exact held h (onlineSymbol_moves fun e _ => receiveAbort_moves p e)
  | rxSymbolError p => exact held h (symbolError_moves p _)
  | txCredit p => exact held h (sendCredit_moves p _)
  | txSof p => exact held h (sendSof_moves p _)
  | txDataSymbol p => exact held h (sendData_moves p _)
  | txEof p => exact .ofOnDevice h (sendEof_event _ p _)
  | txAbort p => exact held h (sendAbort_moves p _)
  | copyCompletion =>
    refine held h ?_
    cases hw : s.dev.capture.work with
    | nil =>
      have hidle : completeCopy s.dev = s.dev := by unfold completeCopy; rw [hw]
      rw [hidle]
    | cons w rest => exact (Move.copied w rest hw).moves
  | readWord a => exact held h (runOperation_moves (opReadWord_moves a _))
  | writeWord a v => exact held h (runOperation_moves (opWriteWord_moves a v _))
  | modifyWord a v m => exact held h (runOperation_moves (opModifyWord_moves a v m _))
  | enableBClear => exact held h (disableB_moves _)
  | enableBSet => exact held h Move.enabled.moves
  | tableWrite i form => exact held h (runOperation_moves (opTableWrite_moves i form _))
  | tableRead i clear => exact held h (runOperation_moves (opTableRead_moves i clear _))
  | tableInvalidate i n => exact held h (runOperation_moves (opTableInvalidate_moves i n _))
  | counterRead id clear => exact .ofOnDevice h (counterRead_event id clear _)
  | seqReset c => exact held h (runOperation_moves (opSeqReset_moves c _))
  | faultRead clear => exact .ofOnDevice h (faultRead_event clear _)
  | setNode n => exact held h (runOperation_moves (opSetNode_moves n _))
  | echo data => exact held h (runOperation_moves (opEcho_moves data _))
  | stationReset => exact held h (runOperation_moves (yieldsData_movesFrom [] _))
  | batchEnd => exact held h (endBatch_moves _)
  | stationResetApplied =>
    refine .ofOnDevice h ?_
    split
    · rename_i hdue; exact .stationReset rfl hdue
    · exact .moves .refl
  | localReset v => exact free h (writeLocalReset_moves _)
  | localCauseWrite v => exact free h (lapWrite_moves (onLap_move (.inl rfl)).moves)
  | localEnableWrite v => exact free h (lapWrite_moves (onLap_move (.inl rfl)).moves)
  | noticeTake => exact free h (lapReadAt_moves (lapRead_moves _ _))
  | freeReturn v => exact free h (lapWrite_moves (returnBuffer_moves v _))
  | bufSelectWrite v => exact free h (lapWrite_moves (selectBuffer_moves v _))
  | bufDataRead i => exact free h (lapReadAt_moves (lapRead_moves _ _))
  | slotHeaderWrite k second v => exact free h (lapWrite_moves (writeSlotHeader_moves k second v _))
  | slotSelectWrite v => exact free h (lapWrite_moves (selectSlot_moves v _))
  | slotDataWrite i v => exact free h (lapWrite_moves (writeSlotData_moves i v _))
  | slotHandover v => exact free h (lapWrite_moves (slotHandover_moves v _))
  | slotRecall v => exact free h (lapWrite_moves (slotRecall_moves v _))
  | lapBadCommand code => exact free h (badCommand_moves code _)
  | lapReadOnlyWrite a v => exact .moves (execLapReadOnlyWrite_moves (v := v) h)
  | transactionBegin => exact free h (beginTransaction_moves _)
  | transactionEnd => exact free h (endTransaction_moves _)

/-- Every step is an event of the command at the front of the queue. -/
theorem step_event {s t : State} (h : step s = .next t) : Event s.pending.head? s.dev t.dev := by
  unfold step at h
  split at h
  · cases h
    exact .moves .refl
  · rename_i c rest hpending
    rw [hpending]
    exact exec_event (s := { s with pending := rest }) h

/-- What every part of an event keeps, every step keeps. -/
theorem step_keeps {P : Device → Prop} {s t : State}
    (hP : ∀ {d e}, Shift s.pending.head? d e → P d → P e) (hs : P s.dev) (h : step s = .next t) :
    P t.dev :=
  Shifts.keeps hP (step_event h).shifts hs

end Sys2Proof.Machine

/-! SUPPORT. The lines under every step: what a part of an event makes of one port and its arbiter, and from
it the credit accounts (R23). -/

namespace Sys2Proof.Machine

/-! ## Which blocks an operation leaves -/

@[simp] theorem takeNotice_ports (d : Device) : (takeNotice d).ports = d.ports := by
  unfold takeNotice; split <;> rfl

@[simp] theorem placeEnumRet_ports (f : Frame) (d : Device) : (d.placeEnumRet f).ports = d.ports := by
  unfold Device.placeEnumRet; split <;> rfl

@[simp] theorem completeSlot_ports (p : PortId) (k : Parity) (st : SlotStatus) (d : Device) :
    (completeSlot p k st d).ports = d.ports := by
  unfold completeSlot; dsimp only; split <;> rfl

@[simp] theorem slotTaken_ports (k : SlotId) (d : Device) : (slotTaken k d).ports = d.ports := by
  simp [slotTaken]

@[simp] theorem Device.emptyRecord_ports (d : Device) : d.emptyRecord.ports = d.ports := by
  unfold Device.emptyRecord Device.withdrawAlert
  split <;> rfl

/-- The copy of the head item at the ports: the item's frame loses its capture use. -/
theorem completeCopy_port {d : Device} {w : WorkItem} {rest : List WorkItem}
    (hw : d.capture.work = w :: rest) (p : PortId) :
    (completeCopy d).port p =
      if p = w.port then (d.port p).endCapture w.key else d.port p := by
  unfold completeCopy
  simp only [hw]
  rw [Device.port_onPort]
  by_cases h : p = w.port
  · subst h
    split <;> simp [Device.port] <;> split <;> rfl
  · rw [if_neg h, if_neg h]
    split <;> rfl

@[simp] theorem takeNotice_egress (d : Device) : (takeNotice d).egress = d.egress := by
  unfold takeNotice; split <;> rfl

@[simp] theorem placeEnumRet_egress (f : Frame) (d : Device) :
    (d.placeEnumRet f).egress = d.egress := by
  unfold Device.placeEnumRet; split <;> rfl

@[simp] theorem completeSlot_egress (p : PortId) (k : Parity) (st : SlotStatus) (d : Device) :
    (completeSlot p k st d).egress = d.egress := by
  unfold completeSlot; dsimp only; split <;> rfl

@[simp] theorem slotTaken_egress (k : SlotId) (d : Device) : (slotTaken k d).egress = d.egress := by
  simp [slotTaken]

@[simp] theorem Device.emptyRecord_egress (d : Device) : d.emptyRecord.egress = d.egress := by
  unfold Device.emptyRecord Device.withdrawAlert
  split <;> rfl

@[simp] theorem startRequest_egress (d : Device) : (startRequest d).egress = d.egress := by
  rw [startRequest_frame]

@[simp] theorem offerCopy_egress (h : Header) (q : RequestCopy) (d : Device) :
    (offerCopy h q d).egress = d.egress := by
  rcases offerCopy_cases h q d with ⟨_, e⟩ | ⟨_, e⟩ <;> simp [e]

@[simp] theorem takeNotice_enableB (d : Device) : (takeNotice d).enableB = d.enableB := by
  unfold takeNotice; split <;> rfl

@[simp] theorem placeEnumRet_enableB (f : Frame) (d : Device) :
    (d.placeEnumRet f).enableB = d.enableB := by
  unfold Device.placeEnumRet; split <;> rfl

@[simp] theorem completeSlot_enableB (p : PortId) (k : Parity) (st : SlotStatus) (d : Device) :
    (completeSlot p k st d).enableB = d.enableB := by
  unfold completeSlot; dsimp only; split <;> rfl

@[simp] theorem dealSlots_enableB (p : PortId) (d : Device) :
    (dealSlots p d).enableB = d.enableB := by
  rw [dealSlots, dealNext_frame, dealNext_frame]

@[simp] theorem slotTaken_enableB (k : SlotId) (d : Device) : (slotTaken k d).enableB = d.enableB := by
  simp [slotTaken]

@[simp] theorem Device.emptyRecord_enableB (d : Device) : d.emptyRecord.enableB = d.enableB := by
  unfold Device.emptyRecord Device.withdrawAlert
  split <;> rfl

@[simp] theorem startRequest_enableB (d : Device) : (startRequest d).enableB = d.enableB := by
  rw [startRequest_frame]

@[simp] theorem offerCopy_enableB (h : Header) (q : RequestCopy) (d : Device) :
    (offerCopy h q d).enableB = d.enableB := by
  rcases offerCopy_cases h q d with ⟨_, e⟩ | ⟨_, e⟩ <;> simp [e]

theorem completeCopy_enableB (d : Device) : (completeCopy d).enableB = d.enableB := by
  unfold completeCopy
  split
  · rfl
  · dsimp only; split <;> rfl

theorem completeCopy_egress (d : Device) : (completeCopy d).egress = d.egress := by
  unfold completeCopy
  split
  · rfl
  · dsimp only; split <;> rfl

/-- Whether a line is enabled: that of port A always, that of port B by ENABLE_B (R16). -/
def Device.enabled (d : Device) : PortId → Bool
  | .a => true
  | .b => d.enableB

theorem Device.enabled_of_enableB {d e : Device} (h : e.enableB = d.enableB) (p : PortId) :
    e.enabled p = d.enabled p := by
  cases p
  · rfl
  · exact h

theorem Device.arbiter_of_egress {d e : Device} (h : e.egress = d.egress) (p : PortId) :
    e.arbiter p = d.arbiter p := by rw [Device.arbiter, h]; rfl

/-! ## What a part of an event makes of one line -/

/-- Every change of one port, its arbiter and its enable. -/
inductive LineShift (P : Port) (a : Egress) (v : Bool) : Port → Egress → Bool → Prop
  | same : LineShift P a v P a v
  | move {Q : Port} (h : PortMove P Q) : LineShift P a v Q a v
  | wentOnline (h : P.link = .seeking) : LineShift P a v P.goOnline a v
  | enabled (h : P.link = .offline) :
      LineShift P a v { P with link := .seeking, readySent := false } a true
  | stayedEnabled (h : P.link ≠ .offline) : LineShift P a v P a true
  | disabled (h : P.link = .seeking) : LineShift P a v { P with link := .offline } a false
  | stayedDisabled (h : P.link = .offline) : LineShift P a v P a false
  | wentDown (link : LinkState) (ready : Bool) (tx : Transmitter) (w : Bool)
      (hlink : (link = .seeking ∧ w = v) ∨ (link = .offline ∧ w = false))
      (hon : P.online = true) (htx : tx.isSending = false) :
      LineShift P a v (P.leaveOnline link ready tx)
        { queue := [], share := a.share, chosen := none } w
  -- resident frames
  | forwardsEnded (keys : List Nat) {Q : Port} (h : P.ForwardsEnded keys Q) : LineShift P a v Q a v
  | referred (key : Nat) : LineShift P a v (P.mapResidents (beginForwardOf key)) a v
  | captured (key : Nat) : LineShift P a v (P.mapResidents (beginCaptureOf key)) a v
  | copied (key : Nat) : LineShift P a v (P.endCapture key) a v
  | becameResident (f : RxFrame) (frame : Frame) (blocks : Nat) (hrx : P.rx = some f)
      (hcharge : f.charge = some blocks) : LineShift P a v (P.makeResident frame blocks) a v
  | released : LineShift P a v P.release a v
  -- the frames that the arbiter sends
  | queued (ref : ForwardRef) (hon : P.online = true) :
      LineShift P a v P { a with queue := a.queue ++ [ref] } v
  | choseOrigin (kind : OriginKind) (f : Frame) (hon : P.online = true) (hc : a.chosen = none) :
      LineShift P a v P { a with chosen := some { frame := .origin kind f, sending := false } } v
  | choseForward (ref : ForwardRef) (rest : List ForwardRef) (share : Nat) (hon : P.online = true)
      (hc : a.chosen = none) (hq : a.queue = ref :: rest) (hshare : share = a.share ∨ share ≤ 15) :
      LineShift P a v P
        { queue := rest, share, chosen := some { frame := .forward ref, sending := false } } v
  | choseLaunch (k : Parity) (hon : P.online = true) (hc : a.chosen = none) :
      LineShift P a v P
        { a with share := 0, chosen := some { frame := .launch k, sending := false } } v
  | sofSent (c : Chosen) (blocks : Nat) (bytes : List Byte) (hon : P.online = true)
      (hc : a.chosen = some c) :
      LineShift P a v { P with held := P.held - blocks, tx := .sending bytes 0, lastSent := [.sof] }
        { a with chosen := some { c with sending := true } } v
  | eofSent :
      LineShift P a v { P with tx := .between, lastSent := [.eof] } { a with chosen := none } v
  | locallyReset :
      LineShift P a v
        { P.endCaptures with
          tx := if a.chosen.any (fun c => c.frame.isLaunch && c.sending) then abortTransmission P.tx
            else P.tx }
        { a with chosen := a.chosen.filter fun c => !c.frame.isLaunch } v
  | reset : LineShift P a v Port.reset Egress.reset true

/-- The change of line `q` from `d` to `e`. -/
abbrev Device.LineShifts (d e : Device) (q : PortId) : Prop :=
  LineShift (d.port q) (d.arbiter q) (d.enabled q) (e.port q) (e.arbiter q) (e.enabled q)

theorem Device.LineShifts.ofSame {d e : Device} (hports : e.ports = d.ports)
    (hegress : e.egress = d.egress) (henable : e.enableB = d.enableB) (q : PortId) :
    d.LineShifts e q := by
  rw [Device.LineShifts, Device.port_of_ports hports, Device.arbiter_of_egress hegress,
    Device.enabled_of_enableB henable]
  exact .same

/-- A change of one port is no change of the other. -/
theorem Device.LineShifts.onPort {p : PortId} {f : Port → Port} {d : Device}
    (h : LineShift (d.port p) (d.arbiter p) (d.enabled p) (f (d.port p)) (d.arbiter p) (d.enabled p))
    (q : PortId) :
    d.LineShifts (d.onPort p f) q := by
  rw [Device.LineShifts, Device.port_onPort, Device.arbiter_onPort]
  split
  · rename_i hq
    rw [hq]
    exact h
  · exact .same

/-- A change of one arbiter is no change of the other. -/
theorem Device.LineShifts.onArbiter {p : PortId} {f : Egress → Egress} {d : Device}
    (h : LineShift (d.port p) (d.arbiter p) (d.enabled p) (d.port p) (f (d.arbiter p)) (d.enabled p))
    (q : PortId) :
    d.LineShifts (d.onArbiter p f) q := by
  rw [Device.LineShifts, Device.arbiter_onArbiter, Device.port_onArbiter]
  split
  · rename_i hq
    rw [hq]
    exact h
  · exact .same

theorem eofSent_port (p q : PortId) (d : Device) : (eofSent p d).port q =
    if q = p then { d.port p with tx := .between, lastSent := [.eof] } else d.port q := by
  rw [eofSent, Device.port_onArbiter, Device.port_onPort]

theorem eofSent_arbiter (p q : PortId) (d : Device) : (eofSent p d).arbiter q =
    if q = p then { d.arbiter p with chosen := none } else d.arbiter q := by
  rw [eofSent, Device.arbiter_onArbiter]
  rfl

theorem eofSent_line (p q : PortId) (d : Device) : d.LineShifts (eofSent p d) q := by
  rw [Device.LineShifts, eofSent_port, eofSent_arbiter]
  split
  · rename_i hq
    rw [hq]
    exact .eofSent
  · exact .same

theorem enableBOn_line (d : Device) (q : PortId) : d.LineShifts (enableBOn d) q := by
  have other : (enableBOn d).port .a = d.port .a ∧ (enableBOn d).egress = d.egress := by
    unfold enableBOn; dsimp only; split <;> exact ⟨rfl, rfl⟩
  rw [Device.LineShifts, Device.arbiter_of_egress other.2]
  cases q with
  | a => rw [other.1]; exact .same
  | b =>
    unfold enableBOn
    dsimp only
    split
    · exact .enabled (by assumption)
    · exact .stayedEnabled (by show d.ports.b.link ≠ _; simp [*])
    · exact .stayedEnabled (by show d.ports.b.link ≠ _; simp [*])

/-- ENABLE_B cleared at a port that is not ONLINE. -/
theorem disableB_of_not_online {d : Device} (h : d.ports.b.online = false) :
    disableB d = { d with enableB := false } ∧ d.ports.b.link = .offline
      ∨ d.ports.b.link = .seeking
        ∧ disableB d = { d with enableB := false }.onPort .b fun P => { P with link := .offline } := by
  unfold disableB
  dsimp only
  split
  · rename_i hlink
    simp [Port.online, hlink] at h
  · exact .inr ⟨by assumption, rfl⟩
  · exact .inl ⟨rfl, by assumption⟩

theorem disableB_line {d : Device} (h : d.ports.b.online = false) (q : PortId) :
    d.LineShifts (disableB d) q := by
  rcases disableB_of_not_online h with ⟨e, hlink⟩ | ⟨hlink, e⟩ <;> rw [e] <;> cases q
  · exact .same
  · exact .stayedDisabled hlink
  · exact .same
  · exact .disabled hlink

theorem chooseForwardOrLaunch_line {p : PortId} {d : Device} (hon : (d.port p).online = true)
    (hc : (d.arbiter p).chosen = none) (q : PortId) :
    d.LineShifts (chooseForwardOrLaunch p d) q := by
  have launch : ∀ k, d.LineShifts (chooseLaunch p k d) q := fun k =>
    Device.LineShifts.onArbiter (d := d.onSlot ⟨p, k⟩ fun s => { s with owner := .committed })
      (f := fun a => { a with share := 0, chosen := some { frame := .launch k, sending := false } })
      (.choseLaunch k hon hc) q
  have hbits := d.egressCtl.injectShare.isLt
  unfold chooseForwardOrLaunch
  dsimp only
  split
  · exact .same
  · rename_i hq _
    exact Device.LineShifts.onArbiter (.choseForward _ _ _ hon hc hq (.inl rfl)) q
  · exact launch _
  · rename_i hq _
    split
    · exact Device.LineShifts.onArbiter (.choseForward _ _ _ hon hc hq (.inr (by omega))) q
    · exact launch _

/-- The head of the origin list is an ALERT of an EMPTY record, or gives a frame. -/
theorem OriginBody.gives_or_empty (b : OriginBody) (d : Device) :
    b = .alert ∧ d.stats.record = none ∨ ∃ kind f, b.Gives d kind f := by
  cases b with
  | reply f => exact .inr ⟨_, _, .reply f⟩
  | enumRet f renewed => exact .inr ⟨_, _, .enumRet f renewed⟩
  | alert =>
    by_cases hrecord : d.stats.record = none
    · exact .inl ⟨rfl, hrecord⟩
    · exact .inr ⟨_, _, .alert hrecord⟩

theorem chooseOrigin_line {d : Device} (hon : (d.port .a).online = true)
    (hc : (d.arbiter .a).chosen = none) (l : List OriginEntry) (q : PortId) :
    d.LineShifts (chooseOrigin l d) q := by
  induction l generalizing d with
  | nil => exact chooseForwardOrLaunch_line (d := { d with origin := [] }) hon hc q
  | cons e rest ih =>
    rcases e.body.gives_or_empty d with ⟨hbody, hrecord⟩ | ⟨kind, f, hgives⟩
    · rw [chooseOrigin_of_empty_alert hbody hrecord]
      exact ih (d := d.setAlertPending false) hon hc
    · rw [chooseOrigin_of_gives hgives]
      exact Device.LineShifts.onArbiter (f := fun a =>
        { a with chosen := some { frame := .origin kind f, sending := false } })
        (.choseOrigin kind f hon hc) q

theorem choose_line (p : PortId) (d : Device) (q : PortId) : d.LineShifts (choose p d) q := by
  by_cases h : (d.port p).online = true ∧ (d.arbiter p).chosen = none
  · unfold choose
    rw [if_pos h]
    obtain ⟨hon, hc⟩ := h
    cases p with
    | a => exact chooseOrigin_line hon hc _ q
    | b => exact chooseForwardOrLaunch_line hon hc q
  · unfold choose
    rw [if_neg h]
    exact .same

theorem Move.line {d e : Device} (h : Move d e) (q : PortId) : d.LineShifts e q := by
  cases h with
  | reported r => exact .ofSame (by simp) (by simp) (by simp) q
  | port p Q h => exact .onPort (.move h) q
  | wentOnline p h => exact .onPort (.wentOnline h) q
  | enabled => exact enableBOn_line d q
  | disabled h => exact disableB_line h q
  | wentDown p v link ready tx m hon hlink htx hegress hport =>
    obtain ⟨harbiter, hother, hended, -, -, -, -, -, -, hrest⟩ := hegress
    have henable : e.enableB = v := by rw [hrest]
    rcases PortId.eq_or_opposite p q with rfl | rfl
    · rw [Device.LineShifts, hport, harbiter]
      refine .wentDown link ready tx _ ?_ hon htx
      rcases hlink with ⟨hlink, hv⟩ | ⟨rfl, hlink, hv⟩
      · exact .inl ⟨hlink, Device.enabled_of_enableB (henable.trans hv) q⟩
      · exact .inr ⟨hlink, henable.trans hv⟩
    · have hsame : e.enabled p.opposite = d.enabled p.opposite := by
        rcases hlink with ⟨-, hv⟩ | ⟨rfl, -, -⟩
        · exact Device.enabled_of_enableB (henable.trans hv) _
        · rfl
      rw [Device.LineShifts, hother, hsame]
      exact .forwardsEnded _ hended
  | chose p => exact choose_line p d q
  | referred p key h label next hfree hon =>
    rw [Device.LineShifts, makeReference, Device.port_onArbiter, Device.arbiter_onArbiter,
      Device.port_onPort]
    rcases PortId.eq_or_opposite p q with rfl | rfl
    · rw [if_pos rfl, if_neg (PortId.opposite_ne q).symm]
      exact .referred key
    · rw [if_neg (PortId.opposite_ne p), if_pos rfl]
      exact .queued _ hon
  | sofSent p c blocks bytes hc hon =>
    rw [Device.LineShifts, Device.port_onArbiter, Device.port_onPort, Device.arbiter_onArbiter]
    split
    · rename_i hq
      rw [hq]
      exact .sofSent c blocks bytes hon hc
    · exact .same
  | forwardEnded p ref sending hc =>
    rw [Device.LineShifts, Device.arbiter_onPort, Device.arbiter_count]
    rcases PortId.eq_or_opposite p q with rfl | rfl
    · rw [Device.port_onPort, if_neg (PortId.opposite_ne q).symm]
      exact eofSent_line q q d
    · rw [Device.port_onPort_self, Device.port_count, eofSent_port, eofSent_arbiter,
        if_neg (PortId.opposite_ne p), if_neg (PortId.opposite_ne p)]
      exact .forwardsEnded _ (Port.endForward_ends _ _)
  | launchEnded p k sending hc =>
    have hports : (dealSlots p (completeSlot p k .sent (eofSent p d))).ports = (eofSent p d).ports := by
      simp
    have hegress : (dealSlots p (completeSlot p k .sent (eofSent p d))).egress =
        (eofSent p d).egress := by simp
    have henable : (dealSlots p (completeSlot p k .sent (eofSent p d))).enableB =
        (eofSent p d).enableB := by simp
    rw [Device.LineShifts, Device.port_of_ports hports, Device.arbiter_of_egress hegress,
      Device.enabled_of_enableB henable]
    exact eofSent_line p q d
  | originEnded p kind f sending hc hkind => exact eofSent_line p q d
  | enumReturned f => exact .ofSame (by simp) (by simp) (by simp) q
  | captured p key h entry ch b rest hfree hkey =>
    have hegress : (captureAccept p key h entry ch b rest d).egress = d.egress := rfl
    rw [Device.LineShifts, captureAccept_port, Device.arbiter_of_egress hegress]
    split
    · rename_i hq
      rw [hq]
      exact .captured key
    · exact .same
  | copied w rest hw =>
    rw [Device.LineShifts, completeCopy_port hw, Device.arbiter_of_egress (completeCopy_egress d),
      Device.enabled_of_enableB (completeCopy_enableB d)]
    split
    · exact .copied w.key
    · exact .same
  | noticeTaken => exact .ofSame (by simp) (by simp) (by simp) q
  | locallyReset m h =>
    obtain ⟨-, -, -, -, hports, -, -, henable, -⟩ := h
    obtain ⟨hport, harbiter⟩ := hports q
    have he : e.port q = { (d.port q).endCaptures with
        tx := if (d.arbiter q).chosen.any (fun c => c.frame.isLaunch && c.sending) then
            abortTransmission (d.port q).tx
          else (d.port q).tx } := by
      rw [hport, Port.endCaptures_ends]
      rfl
    rw [Device.LineShifts, he, harbiter, Device.enabled_of_enableB henable]
    exact .locallyReset
  | copyOffered h q => exact .ofSame (by simp) (by simp) (by simp) _
  | handedOver k hfree hlen => exact .ofSame (by simp) (by simp) (by simp) q
  | _ => exact .same

theorem Shift.line {c : Option Instr} {d e : Device} (h : Shift c d e) (q : PortId) : d.LineShifts e q := by
  cases h with
  | move h => exact h.line q
  | becameResident p f frame blocks hrx hcharge =>
    exact .onPort (.becameResident f frame blocks hrx hcharge) q
  | released p => exact .onPort .released q
  | originSettled p kind f sending hc => exact eofSent_line p q d
  | started => exact .ofSame (by simp) (by simp) (by simp) q
  | fullReset high h => cases q <;> exact .reset
  | recordEmptied h => exact .ofSame (by simp) (by simp) (by simp) q
  | _ => exact .same

/-! ## The credit account (R23) -/

/-- A frame in reception is judged or charged only at its complete header, and not both. -/
def RxFrame.Kept (f : RxFrame) : Prop :=
  (f.count < 8 → f.judged = .unjudged ∧ f.charge = none) ∧ (f.judged ≠ .unjudged → f.charge = none)

theorem Port.accountKept_iff (P : Port) :
    P.AccountKept ↔ P.total = 40 ∧ ∀ f ∈ P.rx, f.Kept := Iff.rfl

/-- What a byte position leaves of a frame in reception. -/
theorem RxFrame.fill_kept (f : RxFrame) (b : Option Byte) :
    (f.fill b).count = f.count + 1 ∧ (f.fill b).judged = f.judged ∧ (f.fill b).charge = f.charge
      ∧ (f.fill b).header = f.header := by
  cases hd : f.damaged with
  | true => cases b <;> simp [RxFrame.fill, hd]
  | false =>
    cases b with
    | none => simp [RxFrame.fill]
    | some b => rw [RxFrame.fill_good hd]; simp [RxFrame.withByte]

theorem RxFrame.Kept.fill {f : RxFrame} (h : f.Kept) (b : Option Byte) : (f.fill b).Kept := by
  obtain ⟨hcount, hjudged, hcharge, -⟩ := f.fill_kept b
  obtain ⟨hearly, hlate⟩ := h
  unfold RxFrame.Kept
  rw [hcount, hjudged, hcharge]
  exact ⟨fun hlt => hearly (by omega), hlate⟩

/-- A frame whose eighth position has just been filled is neither judged nor charged. -/
theorem RxFrame.Kept.fresh_at_eight {f : RxFrame} {b : Option Byte} (h : f.Kept)
    (h8 : (f.fill b).count = 8) : (f.fill b).judged = .unjudged ∧ (f.fill b).charge = none := by
  obtain ⟨hcount, hjudged, hcharge, -⟩ := f.fill_kept b
  rw [hjudged, hcharge]
  exact h.1 (by omega)

/-- The account of a port whose frame in reception is `f`. -/
theorem Port.total_of_rx {P : Port} {f : RxFrame} (h : P.rx = some f) :
    P.total = f.charge.getD 0 + blocksOf P.residents + P.outstanding + P.unannounced := by
  simp [Port.total, Port.occupied, Port.charged, h, RxFrame.charged]

theorem Port.total_of_no_rx {P : Port} (h : P.rx = none) :
    P.total = blocksOf P.residents + P.outstanding + P.unannounced := by
  simp [Port.total, Port.occupied, Port.charged, h]

theorem PortMove.keeps_account {P Q : Port} (h : PortMove P Q) (hP : P.AccountKept) :
    Q.AccountKept := by
  rw [Port.accountKept_iff] at hP ⊢
  obtain ⟨htotal, hrxs⟩ := hP
  cases h with
  | began hon hrx =>
    refine ⟨?_, fun f hf => ?_⟩
    · rw [Port.total_of_no_rx hrx] at htotal
      rw [Port.total_of_rx rfl]
      simpa [RxFrame.fresh] using htotal
    · cases hf
      exact ⟨fun _ => ⟨rfl, rfl⟩, fun _ => rfl⟩
  | filled f b hrx =>
    refine ⟨?_, fun g hg => ?_⟩
    · rw [Port.total_of_rx hrx] at htotal
      rw [Port.total_of_rx rfl, (f.fill_kept b).2.2.1]
      exact htotal
    · cases hg
      exact (hrxs f hrx).fill b
  | misformed f b h hrx h8 =>
    obtain ⟨-, hcharge⟩ := (hrxs f hrx).fresh_at_eight h8
    refine ⟨?_, fun g hg => ?_⟩
    · rw [Port.total_of_rx hrx, ← (f.fill_kept b).2.2.1] at htotal
      rw [Port.total_of_rx rfl]
      exact htotal
    · cases hg
      exact ⟨fun hlt => by simp only at hlt; omega, fun _ => hcharge⟩
  | violated f b h hrx h8 =>
    obtain ⟨-, hcharge⟩ := (hrxs f hrx).fresh_at_eight h8
    refine ⟨?_, fun g hg => ?_⟩
    · rw [Port.total_of_rx hrx, ← (f.fill_kept b).2.2.1] at htotal
      rw [Port.giveBack_total, Port.total_of_rx rfl]
      exact htotal
    · cases hg
      exact ⟨fun hlt => by simp only at hlt; omega, fun _ => hcharge⟩
  | charged f b h hrx h8 hle =>
    obtain ⟨hjudged, hcharge⟩ := (hrxs f hrx).fresh_at_eight h8
    refine ⟨?_, fun g hg => ?_⟩
    · rw [Port.total_of_rx hrx, ← (f.fill_kept b).2.2.1, hcharge, Option.getD_none] at htotal
      rw [Port.total_of_rx rfl, Option.getD_some]
      dsimp only
      omega
    · cases hg
      exact ⟨fun hlt => by simp only at hlt; omega, fun hne => absurd hjudged hne⟩
  | closed f hrx hcharge =>
    exact ⟨(Port.dropReception_total P).trans htotal, fun g hg => by cases hg⟩
  | settled f hrx hcharge =>
    refine ⟨?_, fun g hg => by cases hg⟩
    rw [Port.giveBack_total, Port.total_of_no_rx rfl]
    rw [Port.total_of_rx hrx, hcharge, Option.getD_none] at htotal
    dsimp only
    omega
  | forgotten f hrx hj =>
    refine ⟨?_, fun g hg => by cases hg⟩
    have hcharge : f.charge = none := (hrxs f hrx).2 (by simp [hj])
    rw [Port.total_of_no_rx rfl]
    rw [Port.total_of_rx hrx, hcharge, Option.getD_none] at htotal
    dsimp only
    omega
  | announced symbols hon => exact ⟨(Port.announce_total P).trans htotal, hrxs⟩
  | _ => exact ⟨htotal, hrxs⟩

theorem Port.ForwardsEnded.total {keys : List Nat} {P Q : Port} (h : P.ForwardsEnded keys Q) :
    Q.total = P.total ∧ Q.rx = P.rx := by
  by_cases hk : keys = []
  · rw [h.1 hk]
    exact ⟨rfl, rfl⟩
  · have he : Q = (P.mapResidents (Resident.lessForwards keys)).release := h.2 hk
    rw [he, Port.release_total, Port.mapResidents_total]
    · exact ⟨rfl, rfl⟩
    · intro r
      unfold Resident.lessForwards
      split <;> rfl

theorem LineShift.keeps_account {P Q : Port} {a b : Egress} {v w : Bool}
    (h : LineShift P a v Q b w)
    (hP : P.AccountKept) : Q.AccountKept := by
  have ⟨htotal, hrxs⟩ := (Port.accountKept_iff P).mp hP
  have same : ∀ {R : Port}, R.total = P.total → R.rx = P.rx → R.AccountKept := fun ht hr =>
    (Port.accountKept_iff _).mpr ⟨ht.trans htotal, hr ▸ hrxs⟩
  cases h with
  | move h => exact h.keeps_account hP
  | wentOnline h =>
    have ht : P.goOnline.total = P.total := by
      unfold Port.goOnline
      split
      · exact Port.announce_total P
      · rfl
      · rfl
    have hr : P.goOnline.rx = P.rx := by unfold Port.goOnline; split <;> rfl
    exact same ht hr
  | wentDown link ready tx w hlink hon htx =>
    have ht : (P.leaveOnline link ready tx).total = P.total := by
      rw [Port.total_of_no_rx rfl]
      simp only [Port.total, Port.occupied, Port.leaveOnline]
      omega
    exact (Port.accountKept_iff _).mpr ⟨ht.trans htotal, fun g hg => by cases hg⟩
  | forwardsEnded keys h => exact same h.total.1 h.total.2
  | referred key =>
    exact same (Port.mapResidents_total (fun r => by unfold beginForwardOf; split <;> rfl) P) rfl
  | captured key =>
    exact same (Port.mapResidents_total (fun r => by unfold beginCaptureOf; split <;> rfl) P) rfl
  | copied key => exact same (Port.endCapture_total key P) rfl
  | locallyReset => exact same (Port.endCaptures_total P) rfl
  | becameResident f frame blocks hrx hcharge =>
    refine (Port.accountKept_iff _).mpr ⟨?_, fun g hg => by cases hg⟩
    rw [Port.total_of_rx hrx, hcharge, Option.getD_some] at htotal
    rw [Port.total_of_no_rx rfl]
    simp only [Port.makeResident, blocksOf, List.map_append, List.sum_append, List.map_cons, List.map_nil,
      List.sum_cons, List.sum_nil] at htotal ⊢
    omega
  | released => exact same (Port.release_total P) rfl
  | reset => exact ⟨rfl, fun g hg => by cases hg⟩
  | enabled h => exact same rfl rfl
  | disabled h => exact same rfl rfl
  | sofSent c blocks bytes hon hc => exact same rfl rfl
  | eofSent => exact same rfl rfl
  | _ => exact hP

theorem Shift.keeps_accounts {c : Option Instr} {d e : Device} (h : Shift c d e)
    (hd : d.AccountsKept) : e.AccountsKept := fun p => (h.line p).keeps_account (hd p)

/-- Settles O49: every change of a port keeps the sum of its account. -/
theorem stepKeepsCreditAccounts : Obligations.StepKeepsCreditAccounts := fun _ _ hs h =>
  step_keeps Shift.keeps_accounts hs h

end Sys2Proof.Machine

/-! SUPPORT. The counts, the link states and the quiet of a port that is not ONLINE (R16 to R20, R26, R70 to
R75), each by the changes of one line. -/

namespace Sys2Proof.Machine

/-! ## Counts in range (R19, R26, R71) -/

/-- Held is 0..63, the error run is short of a link drop, and the share counter is at most 15. -/
def LineInRange (P : Port) (a : Egress) : Prop := P.held ≤ 63 ∧ P.errorRun < 8 ∧ a.share ≤ 15

theorem PortMove.keeps_counts {P Q : Port} (h : PortMove P Q) (hheld : P.held ≤ 63)
    (hrun : P.errorRun < 8) : Q.held ≤ 63 ∧ Q.errorRun < 8 := by
  cases h with
  | decoded => exact ⟨hheld, Nat.zero_lt_succ 7⟩
  | erred h => exact ⟨hheld, Nat.succ_lt_succ h⟩
  | credited n hon h => exact ⟨h, hrun⟩
  | overran hon => exact ⟨le_rfl, hrun⟩
  | _ => exact ⟨hheld, hrun⟩

theorem Port.ForwardsEnded.fields {keys : List Nat} {P Q : Port} (h : P.ForwardsEnded keys Q) :
    Q = { P with residents := Q.residents, unannounced := Q.unannounced } := by
  by_cases hk : keys = []
  · rw [h.1 hk]
  · rw [h.2 hk]

theorem Port.goOnline_counts (P : Port) :
    P.goOnline.held = P.held ∧ P.goOnline.errorRun = 0 ∧ P.goOnline.link = .online := by
  unfold Port.goOnline
  split <;> exact ⟨rfl, rfl, rfl⟩

theorem LineShift.keeps_range {P Q : Port} {a b : Egress} {v w : Bool} (h : LineShift P a v Q b w)
    (hP : LineInRange P a) : LineInRange Q b := by
  have ⟨hheld, hrun, hshare⟩ := hP
  cases h with
  | move h =>
    obtain ⟨hheld', hrun'⟩ := h.keeps_counts hheld hrun
    exact ⟨hheld', hrun', hshare⟩
  | wentOnline h =>
    obtain ⟨hheld', hrun', -⟩ := P.goOnline_counts
    exact ⟨by omega, by omega, hshare⟩
  | wentDown link ready tx w hlink hon htx => exact ⟨Nat.zero_le _, Nat.zero_lt_succ 7, hshare⟩
  | forwardsEnded keys h => rw [h.fields]; exact hP
  | choseForward ref rest share hon hc hq hnew =>
    refine ⟨hheld, hrun, ?_⟩
    rcases hnew with rfl | hle
    · exact hshare
    · exact hle
  | choseLaunch k hon hc => exact ⟨hheld, hrun, Nat.zero_le _⟩
  | sofSent c blocks bytes hon hc => exact ⟨(Nat.sub_le _ _).trans hheld, hrun, hshare⟩
  | reset => exact ⟨Nat.zero_le _, Nat.zero_lt_succ 7, Nat.zero_le _⟩
  | _ => exact hP

/-! ## Link states (R16) -/

/-- R16, of one line: OFFLINE exactly while it is not enabled. -/
def LineLegal (P : Port) (v : Bool) : Prop := P.link = .offline ↔ v = false

theorem Device.linksLegal_iff (d : Device) :
    d.LinksLegal ↔ ∀ q, LineLegal (d.port q) (d.enabled q) := by
  constructor
  · rintro ⟨ha, hb⟩ (_ | _)
    · exact ⟨fun h => absurd h ha, fun h => absurd h (by simp [Device.enabled])⟩
    · exact hb
  · intro h
    exact ⟨fun ha => absurd ((h .a).mp ha) (by simp [Device.enabled]), h .b⟩

theorem LineShift.keeps_legal {P Q : Port} {a b : Egress} {v w : Bool} (h : LineShift P a v Q b w)
    (hP : LineLegal P v) : LineLegal Q w := by
  cases h with
  | move h => rw [LineLegal, h.link]; exact hP
  | wentOnline h =>
    have hv : v ≠ false := fun hv => by simp [hP.mpr hv] at h
    rw [LineLegal, P.goOnline_counts.2.2]
    exact ⟨fun h => (by cases h), fun h => absurd h hv⟩
  | enabled h => exact ⟨fun h => (by cases h), fun h => by cases h⟩
  | stayedEnabled h => exact ⟨fun h' => absurd h' h, fun h => by cases h⟩
  | disabled h => exact ⟨fun _ => rfl, fun _ => rfl⟩
  | stayedDisabled h => exact ⟨fun _ => rfl, fun _ => h⟩
  | wentDown link ready tx w hlink hon htx =>
    rcases hlink with ⟨rfl, rfl⟩ | ⟨rfl, rfl⟩
    · have hv : w ≠ false := fun hw => by simp [Port.online, hP.mpr hw] at hon
      exact ⟨fun h => (by cases h), fun h => absurd h hv⟩
    · exact ⟨fun _ => rfl, fun _ => rfl⟩
  | forwardsEnded keys h => rw [h.fields]; exact hP
  | reset => exact ⟨fun h => (by cases h), fun h => by cases h⟩
  | _ => exact hP

theorem Shift.keeps_counts_and_links {c : Option Instr} {d e : Device} (h : Shift c d e)
    (hd : d.CountsInRange ∧ d.LinksLegal) : e.CountsInRange ∧ e.LinksLegal := by
  obtain ⟨hcounts, hlinks⟩ := hd
  rw [Device.linksLegal_iff] at hlinks ⊢
  exact ⟨fun q => (h.line q).keeps_range (hcounts q), fun q => (h.line q).keeps_legal (hlinks q)⟩

/-- Settles O50: every change of a line keeps its counts in range and its link state legal. -/
theorem stepKeepsCountsAndLinks : Obligations.StepKeepsCountsAndLinks := fun _ _ hcounts hlinks h =>
  step_keeps Shift.keeps_counts_and_links ⟨hcounts, hlinks⟩ h

/-! ## Ports that are not ONLINE (R20, R70, R75), and transmitters (R72) -/

/-- R20, R75, of one line. -/
def LineQuiet (P : Port) (a : Egress) : Prop :=
  P.online = false → P.rx = none ∧ P.held = 0 ∧ P.outstanding = 0 ∧ a.queue = [] ∧ a.chosen = none

/-- R72, of one line. -/
def LineFollows (P : Port) (a : Egress) : Prop := P.tx.isSending = a.isSending

theorem PortMove.keeps_quiet {P Q : Port} (h : PortMove P Q) (hoff : P.online = false)
    (hrx : P.rx = none) (hheld : P.held = 0) (hout : P.outstanding = 0) :
    Q.rx = none ∧ Q.held = 0 ∧ Q.outstanding = 0 := by
  have off : P.online ≠ true := by simp [hoff]
  cases h with
  | credited n hon h => exact absurd hon off
  | overran hon => exact absurd hon off
  | began hon _ => exact absurd hon off
  | filled f b h => rw [hrx] at h; cases h
  | misformed f b _ h _ => rw [hrx] at h; cases h
  | violated f b _ h _ => rw [hrx] at h; cases h
  | charged f b _ h _ _ => rw [hrx] at h; cases h
  | closed f h _ => rw [hrx] at h; cases h
  | settled f h _ => rw [hrx] at h; cases h
  | forgotten f h _ => rw [hrx] at h; cases h
  | announced symbols hon => exact absurd hon off
  | _ => exact ⟨hrx, hheld, hout⟩

theorem Port.goOnline_isSending (P : Port) : P.goOnline.tx.isSending = P.tx.isSending := by
  unfold Port.goOnline
  split
  · rename_i htx; rw [htx]; exact congrArg _ htx
  · rename_i htx; rw [htx]
  · rename_i htx; rw [htx]; rfl

theorem LineShift.keeps_quiet {P Q : Port} {a b : Egress} {v w : Bool} (h : LineShift P a v Q b w)
    (hP : LineQuiet P a) : LineQuiet Q b := by
  cases h with
  | move h =>
    intro hoff
    rw [h.online] at hoff
    obtain ⟨hrx, hheld, hout, hegress⟩ := hP hoff
    obtain ⟨hrx', hheld', hout'⟩ := h.keeps_quiet hoff hrx hheld hout
    exact ⟨hrx', hheld', hout', hegress⟩
  | wentOnline h =>
    intro hoff
    simp [Port.online, P.goOnline_counts.2.2] at hoff
  | enabled h => exact fun _ => hP (by simp [Port.online, h])
  | disabled h => exact fun _ => hP (by simp [Port.online, h])
  | wentDown link ready tx w hlink hon htx => exact fun _ => ⟨rfl, rfl, rfl, rfl, rfl⟩
  | forwardsEnded keys h => rw [h.fields]; exact hP
  | becameResident f frame blocks hrx hcharge =>
    intro hoff
    obtain ⟨hnone, hrest⟩ := hP hoff
    exact ⟨rfl, hrest⟩
  | queued ref hon => exact fun hoff => absurd hon (by simp [hoff])
  | choseOrigin kind f hon hc => exact fun hoff => absurd hon (by simp [hoff])
  | choseForward ref rest share hon hc hq hnew => exact fun hoff => absurd hon (by simp [hoff])
  | choseLaunch k hon hc => exact fun hoff => absurd hon (by simp [hoff])
  | sofSent c blocks bytes hon hc =>
    intro hoff
    have hoff' : P.online = false := hoff
    exact absurd hon (by simp [hoff'])
  | eofSent =>
    intro hoff
    obtain ⟨hrx, hheld, hout, hqueue, -⟩ := hP hoff
    exact ⟨hrx, hheld, hout, hqueue, rfl⟩
  | locallyReset =>
    intro hoff
    obtain ⟨hrx, hheld, hout, hqueue, hchosen⟩ := hP hoff
    exact ⟨hrx, hheld, hout, hqueue, by simp [hchosen]⟩
  | reset => exact fun _ => ⟨rfl, rfl, rfl, rfl, rfl⟩
  | _ => exact hP

theorem abortTransmission_isSending (tx : Transmitter) :
    (abortTransmission tx).isSending = false := by cases tx <;> rfl

theorem LineShift.keeps_follows {P Q : Port} {a b : Egress} {v w : Bool} (h : LineShift P a v Q b w)
    (hP : LineFollows P a) : LineFollows Q b := by
  have idle : a.chosen = none → P.tx.isSending = false := fun hc => by
    rw [hP, Egress.isSending, hc]; rfl
  cases h with
  | move h => rw [LineFollows, h.isSending]; exact hP
  | wentOnline h => rw [LineFollows, P.goOnline_isSending]; exact hP
  | wentDown link ready tx w hlink hon htx => exact htx
  | forwardsEnded keys h => rw [h.fields]; exact hP
  | choseOrigin kind f hon hc => exact idle hc
  | choseForward ref rest share hon hc hq hnew => exact idle hc
  | choseLaunch k hon hc => exact idle hc
  | sofSent c blocks bytes hon hc => rfl
  | eofSent => rfl
  | locallyReset =>
    rw [LineFollows, Egress.isSending] at hP ⊢
    cases hc : a.chosen with
    | none => simpa [hc] using hP
    | some c =>
      rw [hc] at hP
      cases hlaunch : c.frame.isLaunch with
      | false => simpa [hlaunch] using hP
      | true =>
        cases hsending : c.sending with
        | false => simpa [hlaunch, hsending] using hP
        | true => simp [hlaunch, hsending, abortTransmission_isSending]
  | reset => rfl
  | _ => exact hP

theorem Shift.keeps_down_quiet {c : Option Instr} {d e : Device} (h : Shift c d e)
    (hd : d.DownPortsQuiet ∧ d.TransmittersFollow) : e.DownPortsQuiet ∧ e.TransmittersFollow :=
  ⟨fun q => (h.line q).keeps_quiet (hd.1 q), fun q => (h.line q).keeps_follows (hd.2 q)⟩

/-- Settles O51: every change of a line keeps it quiet while it is not ONLINE, and its transmitter in step
with its arbiter. -/
theorem stepKeepsDownPortsQuiet : Obligations.StepKeepsDownPortsQuiet := fun _ _ hquiet hfollow h =>
  step_keeps Shift.keeps_down_quiet ⟨hquiet, hfollow⟩ h

end Sys2Proof.Machine

/-! SUPPORT. The capture unit under every step (R79 to R106): what a part of an event makes of it and of the
notice latch, and from it the pool's circuit, the configuration, the memories and the notices. -/

namespace Sys2Proof.Machine

/-! ## Which blocks an operation leaves -/

theorem takeNotice_frame (d : Device) :
    takeNotice d = { d with capture := (takeNotice d).capture, lap := (takeNotice d).lap } := by
  unfold takeNotice; split <;> rfl

theorem placeEnumRet_frame (f : Frame) (d : Device) :
    d.placeEnumRet f = { d with origin := (d.placeEnumRet f).origin } := by
  unfold Device.placeEnumRet; split <;> rfl

theorem completeCopy_frame (d : Device) :
    completeCopy d = { d with ports := (completeCopy d).ports, capture := (completeCopy d).capture
                              stats := { d.stats with
                                counters := (completeCopy d).stats.counters } } := by
  unfold completeCopy
  split
  · rfl
  · dsimp only; split <;> rfl

theorem Device.emptyRecord_frame (d : Device) :
    d.emptyRecord = { d with origin := d.emptyRecord.origin, stats := d.emptyRecord.stats } := by
  unfold Device.emptyRecord Device.withdrawAlert
  split <;> rfl

theorem offerCopy_frame (h : Header) (q : RequestCopy) (d : Device) :
    offerCopy h q d = { d with origin := (offerCopy h q d).origin, agent := (offerCopy h q d).agent
                               stats := (offerCopy h q d).stats } := by
  rcases offerCopy_cases h q d with ⟨_, e⟩ | ⟨_, e⟩ <;> rw [e]
  · rw [startRequest_frame]; rfl
  · rw [Device.report_frame]; rfl

theorem enableBOn_frame (d : Device) :
    enableBOn d = { d with ports := (enableBOn d).ports, enableB := true } := by
  unfold enableBOn; dsimp only; split <;> rfl

theorem disableB_frame {d : Device} (h : d.ports.b.online = false) :
    disableB d = { d with ports := (disableB d).ports, enableB := false } := by
  rcases disableB_of_not_online h with ⟨e, -⟩ | ⟨-, e⟩
  · rw [e]
  · rw [e]; rfl

/-- An emptied egress side leaves the table, the control words, the capture unit, the agent, the latch
and the launch memory. -/
theorem Device.EgressEmptied.frame {d e : Device} {p : PortId} (h : d.EgressEmptied e p) :
    e = { d with ports := e.ports, egress := e.egress, origin := e.origin, launch := e.launch
                 stats := e.stats, lap := e.lap }
      ∧ e.launch.mem = d.launch.mem ∧ e.lap.latch = d.lap.latch := by
  obtain ⟨-, -, -, -, -, -, -, -, ⟨hkept, hdown⟩, hrest⟩ := h
  refine ⟨hrest, ?_⟩
  by_cases hfree : (d.slot ⟨p, d.nextParity p⟩).owner = .free
  · obtain ⟨hlaunch, hlap, -⟩ := hkept hfree
    rw [hlaunch, hlap]
    exact ⟨rfl, rfl⟩
  · obtain ⟨-, -, -, hmem, -, -, hlap, -⟩ := hdown hfree
    rw [hlap]
    exact ⟨hmem, rfl⟩

/-- What dealing with slots and completing them leaves of the part. -/
structure SlotsFrame (d e : Device) : Prop where
  rest : e = { d with launch := e.launch, lap := e.lap
                      stats := { d.stats with counters := e.stats.counters } }
  mem : e.launch.mem = d.launch.mem
  latch : e.lap.latch = d.lap.latch

theorem SlotsFrame.trans {d e f : Device} (a : SlotsFrame d e) (b : SlotsFrame e f) :
    SlotsFrame d f := by
  refine ⟨?_, b.mem.trans a.mem, b.latch.trans a.latch⟩
  rw [b.rest, a.rest]

theorem completeSlot_slots (p : PortId) (k : Parity) {st : SlotStatus} (d : Device)
    (h : st = .sent ∨ st = .linkDown ∨ st = .unnumbered) : SlotsFrame d (completeSlot p k st d) := by
  obtain ⟨-, hmem, -, -, hlap, -, hrest⟩ := completeSlot_completes p k d h
  exact ⟨hrest, hmem, by rw [hlap]⟩

theorem dealNext_slots (p : PortId) (d : Device) : SlotsFrame d (dealNext p d) := by
  unfold dealNext
  dsimp only
  split
  · split
    · exact completeSlot_slots _ _ _ (.inr (.inl rfl))
    · split
      · exact completeSlot_slots _ _ _ (.inr (.inr rfl))
      · exact ⟨rfl, rfl, rfl⟩
  · exact ⟨rfl, rfl, rfl⟩

theorem dealSlots_slots (p : PortId) (d : Device) : SlotsFrame d (dealSlots p d) :=
  (dealNext_slots p d).trans (dealNext_slots p _)

theorem slotTaken_slots (k : SlotId) (d : Device) : SlotsFrame d (slotTaken k d) := by
  have h : SlotsFrame d
      (d.onSlot k fun s => { s with status := .none, owner := .waiting, offered := none }) :=
    ⟨rfl, rfl, rfl⟩
  exact h.trans (dealSlots_slots k.port _)

/-- The EOF of a launched frame, at the launch unit. -/
theorem launchEnded_slots (p : PortId) (k : Parity) (d : Device) :
    SlotsFrame (eofSent p d) (dealSlots p (completeSlot p k .sent (eofSent p d))) :=
  (completeSlot_slots p k _ (.inl rfl)).trans (dealSlots_slots p _)

/-! ## What a part of an event makes of the capture unit and the latch -/

/-- Every change of the capture unit `x` and the latch `l`. -/
inductive CaptureShift (x : Capture) (l : Option Notice) : Capture → Option Notice → Prop
  | same : CaptureShift x l x l
  | latchEmptied : CaptureShift x l x none
  | channel (ch : Fin 8) (y : Capture) (hheld : y.channels[ch].held = x.channels[ch].held)
      (hcfg : x.channels[ch].Configured → y.channels[ch].Configured)
      (hothers : ∀ c : Fin 8, c ≠ ch → y.channels[c] = x.channels[c])
      (hy : y = { x with channels := y.channels }) : CaptureShift x l y l
  | captured (b : Fin 32) (rest : List (Fin 32)) (w : WorkItem) (y : Capture)
      (hfree : x.free = b :: rest) (hw : w.buffer = b) (hnotice : (noticeOf w).LengthsAgree)
      (hbuffers : ∀ c : Fin 32, y.buffers[c] =
        if c = b then { state := .filling, channel := w.channel } else x.buffers[c])
      (hchannels : ∀ c : Fin 8, (x.channels[c].Configured → y.channels[c].Configured)
        ∧ y.channels[c].held = x.channels[c].held + if c = w.channel then 1 else 0)
      (hy : y = { x with free := rest, work := x.work ++ [w], buffers := y.buffers
                         channels := y.channels }) : CaptureShift x l y l
  | copied (w : WorkItem) (rest : List WorkItem) (y : Capture) (hw : x.work = w :: rest)
      (hmem : Memory.wf x.mem → Memory.wf y.mem)
      (hbuffers : ∀ c : Fin 32, y.buffers[c] =
        if c = w.buffer then { x.buffers[c] with state := .posted } else x.buffers[c])
      (hy : y = { x with work := rest, delivery := x.delivery ++ [noticeOf w], mem := y.mem
                         buffers := y.buffers }) : CaptureShift x l y l
  | taken (n : Notice) (rest : List Notice) (y : Capture) (hq : x.delivery = n :: rest)
      (hbuffers : ∀ c : Fin 32, y.buffers[c] =
        if c = n.buffer then { x.buffers[c] with state := .taken } else x.buffers[c])
      (hy : y = { x with delivery := rest, buffers := y.buffers }) : CaptureShift x l y (some n)
  | returned (b : Fin 32) (y : Capture) (hb : x.buffers[b].state = .taken)
      (hbuffers : ∀ c : Fin 32, y.buffers[c] =
        if c = b then { x.buffers[c] with state := .pooled } else x.buffers[c])
      (hchannels : ∀ c : Fin 8, (x.channels[c].Configured → y.channels[c].Configured)
        ∧ y.channels[c].held = x.channels[c].held - if c = x.buffers[b].channel then 1 else 0)
      (hy : y = { x with free := x.free ++ [b], buffers := y.buffers, channels := y.channels }) :
      CaptureShift x l y l
  | locallyReset (y : Capture) (hfree : y.free = List.finRange 32) (hwork : y.work = [])
      (hdelivery : y.delivery = []) (hbuffers : ∀ b : Fin 32, y.buffers[b].state = .pooled)
      (hchannels : ∀ c : Fin 8, y.channels[c] = { x.channels[c] with held := 0, starved := false })
      (hmem : Memory.wf x.mem → Memory.wf y.mem) : CaptureShift x l y none
  | stationReset : CaptureShift x l { x with channels := x.channels.map Channel.stationReset } l
  | reset : CaptureShift x l Capture.reset none

/-- The change of the capture unit and the latch from `d` to `e`. -/
abbrev Device.CaptureShifts (d e : Device) : Prop :=
  CaptureShift d.capture d.lap.latch e.capture e.lap.latch

theorem Device.CaptureShifts.ofSame {d e : Device} (hcapture : e.capture = d.capture)
    (hlatch : e.lap.latch = d.lap.latch) : d.CaptureShifts e := by
  rw [Device.CaptureShifts, hcapture, hlatch]
  exact .same

theorem SlotsFrame.capture {d e : Device} (h : SlotsFrame d e) : d.CaptureShifts e :=
  .ofSame (by rw [h.rest]) h.latch

/-- R86. -/
theorem captureAccept_capture {p : PortId} {key : Nat} {h : Header} {entry : Fin 64} {ch : Fin 8}
    {b : Fin 32} {rest : List (Fin 32)} {d : Device} (hfree : d.capture.free = b :: rest) :
    d.CaptureShifts (captureAccept p key h entry ch b rest d) := by
  let length := h.length.toNat
  let clip := (d.channel ch).clip.toNat
  let w : WorkItem :=
    { buffer := b, channel := ch, port := p, entry, label := h.label, source := h.source, seq := h.seq
      fullLength := length, capturedLength := min length clip, clipped := decide (clip < length), key }
  have hnotice : (noticeOf w).LengthsAgree := by
    refine ⟨Nat.min_le_left _ _, ?_⟩
    show decide (clip < length) = true ↔ min length clip < length
    rw [decide_eq_true_eq]
    omega
  refine .captured b rest w _ hfree rfl hnotice (captureAccept_buffer p key h entry ch b rest d)
    (fun c => ?_) rfl
  have hc := captureAccept_channel p key h entry ch b rest d c
  rw [Device.channel] at hc
  rw [hc]
  by_cases hch : c = ch
  · subst hch
    rw [if_pos rfl, if_pos rfl]
    exact ⟨id, rfl⟩
  · rw [if_neg hch, if_neg hch]
    exact ⟨id, rfl⟩

/-- R94. -/
theorem completeCopy_capture {w : WorkItem} {rest : List WorkItem} {d : Device}
    (hw : d.capture.work = w :: rest) : d.CaptureShifts (completeCopy d) := by
  have hlatch : (completeCopy d).lap.latch = d.lap.latch := by rw [completeCopy_frame]
  let posted : Device := Device.onBuffer w.buffer (fun b => { b with state := .posted })
    { copyBytes w w.capturedLength d with capture :=
        { (copyBytes w w.capturedLength d).capture with
          work := rest, delivery := d.capture.delivery ++ [noticeOf w] } }
  have hcapture : (completeCopy d).capture = posted.capture := by
    unfold completeCopy
    simp only [hw]
    split <;> rfl
  rw [Device.CaptureShifts, hlatch, hcapture]
  refine .copied w rest _ hw (fun h => Memory.writeBytes_wf h _ _) (fun c => ?_) rfl
  have hc := Device.buffer_onBuffer w.buffer c (fun b => { b with state := .posted })
    { copyBytes w w.capturedLength d with capture :=
        { (copyBytes w w.capturedLength d).capture with
          work := rest, delivery := d.capture.delivery ++ [noticeOf w] } }
  refine Eq.trans hc ?_
  split
  · rename_i h; rw [h]; rfl
  · rfl

/-- R98. -/
theorem takeNotice_capture (d : Device) : d.CaptureShifts (takeNotice d) := by
  unfold takeNotice
  split
  · exact .latchEmptied
  · rename_i n rest hq
    refine .taken n rest _ hq (fun c => ?_) rfl
    have hc := Device.buffer_onBuffer n.buffer c (fun b => { b with state := .taken }) d
    refine Eq.trans hc ?_
    split
    · rename_i h; rw [h]; rfl
    · rfl

/-- R100. -/
theorem acceptReturn_capture {b : Fin 32} {d : Device} (hb : (d.buffer b).state = .taken) :
    d.CaptureShifts (acceptReturn b d) := by
  refine .returned b _ hb (fun c => ?_) (fun c => ?_) rfl
  · have hc := Device.buffer_onBuffer b c (fun x => { x with state := .pooled }) d
    refine Eq.trans hc ?_
    split
    · rename_i h; rw [h]; rfl
    · rfl
  · have hc := Device.channel_onChannel (d.buffer b).channel c (fun c => { c with held := c.held - 1 })
      (d.onBuffer b fun x => { x with state := .pooled })
    have hc' : (acceptReturn b d).capture.channels[c] = _ := hc
    rw [hc']
    have hchannel : d.capture.buffers[b].channel = (d.buffer b).channel := rfl
    rw [hchannel]
    by_cases h : c = (d.buffer b).channel
    · rw [if_pos h, if_pos h, h]
      exact ⟨id, rfl⟩
    · rw [if_neg h, if_neg h]
      exact ⟨id, rfl⟩

/-- R106, R184. -/
theorem Device.LocallyReset.capture {d e : Device} (h : d.LocallyReset e) : d.CaptureShifts e := by
  obtain ⟨⟨hwork, hdelivery, hfree, hbuffers, hchannels, hkept, hmoved⟩, -, hlap, -⟩ := h
  rw [Device.CaptureShifts, hlap]
  refine .locallyReset _ hfree hwork hdelivery (fun b => ?_) hchannels fun hwf => ?_
  · exact congrArg Buffer.state (hbuffers b)
  · cases hw : d.capture.work with
    | nil => rw [hkept hw]; exact hwf
    | cons w rest =>
      obtain ⟨n, -, hmem⟩ := hmoved w rest hw
      rw [hmem]
      exact Memory.writeBytes_wf hwf _ _

theorem Move.capture {d e : Device} (h : Move d e) : d.CaptureShifts e := by
  cases h with
  | lap x h =>
    rcases h with h | h
    · exact .ofSame rfl h
    · rw [Device.CaptureShifts, h]; exact .latchEmptied
  | reported r => rw [Device.report_frame]; exact .same
  | enabled => rw [enableBOn_frame]; exact .same
  | disabled h => rw [disableB_frame h]; exact .same
  | wentDown p v link ready tx m hon hlink htx hegress hport =>
    obtain ⟨hrest, -, hlatch⟩ := hegress.frame
    exact .ofSame (by rw [hrest]) hlatch
  | chose p => rw [choose_frame]; exact .same
  | launchEnded p k sending hc => exact (launchEnded_slots p k d).capture
  | enumReturned f => rw [placeEnumRet_frame]; exact .same
  | captured p key h entry ch b rest hfree hkey => exact captureAccept_capture hfree
  | channel ch x hheld hcfg =>
    have hself : (d.onChannel ch fun _ => x).capture.channels[ch] = x := by
      have := Device.channel_onChannel ch ch (fun _ => x) d
      rwa [if_pos rfl] at this
    refine .channel ch _ (by rw [hself, hheld]; rfl) (fun hc => by rw [hself]; exact hcfg hc)
      (fun c hc => ?_) rfl
    have := Device.channel_onChannel ch c (fun _ => x) d
    rwa [if_neg hc] at this
  | copied w rest hw => exact completeCopy_capture hw
  | noticeTaken => exact takeNotice_capture d
  | returned b h => exact acceptReturn_capture h
  | locallyReset m h => exact h.capture
  | copyOffered h q => rw [offerCopy_frame]; exact .same
  | handedOver k hfree hlen => exact (slotTaken_slots k d).capture
  | _ => exact .same

theorem Shift.capture {c : Option Instr} {d e : Device} (h : Shift c d e) : d.CaptureShifts e := by
  cases h with
  | move h => exact h.capture
  | started => rw [startRequest_frame]; exact .same
  | fullReset high h => exact .reset
  | stationReset h => exact .stationReset
  | recordEmptied h => rw [Device.emptyRecord_frame]; exact .same
  | _ => exact .same

end Sys2Proof.Machine

/-! SUPPORT. The table and the control words, the pool's circuit, the memories and the notices under every
step (R39, R73, R79, R80 to R97). -/

namespace Sys2Proof.Machine

/-! ## The table and the control words (R39, R73, R79) -/

/-- The table and EGRESS_CTL in order. -/
def Device.TablesLegal (d : Device) : Prop := d.TableWellFormed ∧ d.egressCtl.injectShare ≠ 0

theorem Device.TablesLegal.ofSame {d e : Device} (hd : d.TablesLegal) (ht : e.table = d.table)
    (hc : e.egressCtl = d.egressCtl) : e.TablesLegal := by
  rw [Device.TablesLegal, Device.TableWellFormed, ht, hc]
  exact hd

theorem SlotsFrame.tables {d e : Device} (h : SlotsFrame d e) (hd : d.TablesLegal) :
    e.TablesLegal := hd.ofSame (by rw [h.rest]) (by rw [h.rest])

theorem Entry.reset_wellFormed : Entry.reset.WellFormed :=
  ⟨rfl, fun h => by cases h⟩

theorem Device.tablesLegal_ofReset {d : Device} (ht : d.table = Table.reset)
    (hc : d.egressCtl = EgressCtl.reset) : d.TablesLegal := by
  refine ⟨fun i => ?_, by rw [hc]; decide⟩
  have hentry : d.table.entries[i] = Entry.reset := by rw [ht]; simp [Table.reset]
  rw [hentry]
  exact Entry.reset_wellFormed

theorem Move.keeps_tables {d e : Device} (h : Move d e) (hd : d.TablesLegal) : e.TablesLegal := by
  cases h with
  | table t h => exact ⟨fun i => h i (hd.1 i), hd.2⟩
  | egressCtl x h => exact ⟨hd.1, h⟩
  | reported r => exact hd.ofSame (Device.report_table r d) (Device.report_egressCtl r d)
  | enabled => rw [enableBOn_frame]; exact hd
  | disabled h => rw [disableB_frame h]; exact hd
  | wentDown p v link ready tx m hon hlink htx hegress hport => rw [hegress.frame.1]; exact hd
  | chose p => exact hd.ofSame (choose_table p d) (choose_egressCtl p d)
  | launchEnded p k sending hc => exact (launchEnded_slots p k d).tables hd
  | enumReturned f => rw [placeEnumRet_frame]; exact hd
  | copied w rest hw => rw [completeCopy_frame]; exact hd
  | noticeTaken => rw [takeNotice_frame]; exact hd
  | locallyReset m h =>
    obtain ⟨-, -, -, -, -, htable, hctl, -⟩ := h
    exact hd.ofSame htable hctl
  | copyOffered h q => rw [offerCopy_frame]; exact hd
  | handedOver k hfree hlen => exact (slotTaken_slots k d).tables hd
  | _ => exact hd

theorem Shift.keeps_tables {c : Option Instr} {d e : Device} (h : Shift c d e)
    (hd : d.TablesLegal) : e.TablesLegal := by
  cases h with
  | move h => exact h.keeps_tables hd
  | started => rw [startRequest_frame]; exact hd
  | fullReset high h => exact Device.tablesLegal_ofReset rfl rfl
  | stationReset h => exact Device.tablesLegal_ofReset rfl rfl
  | recordEmptied h => rw [Device.emptyRecord_frame]; exact hd
  | _ => exact hd

theorem Channel.reset_configured (held : Nat) : { Channel.reset with held }.Configured :=
  have h : Channel.reset.Configured := ⟨by decide, by decide, by decide, by decide, by decide⟩
  h

theorem CaptureShift.keeps_configured {x y : Capture} {l m : Option Notice}
    (h : CaptureShift x l y m) (hx : ∀ c : Fin 8, x.channels[c].Configured) (c : Fin 8) :
    y.channels[c].Configured := by
  cases h with
  | channel ch y hheld hcfg hothers hy =>
    by_cases hc : c = ch
    · rw [hc]; exact hcfg (hx ch)
    · rw [hothers c hc]; exact hx c
  | captured b rest w y hfree hw hnotice hbuffers hchannels hy => exact (hchannels c).1 (hx c)
  | copied w rest y hw hmem hbuffers hy => rw [hy]; exact hx c
  | taken n rest y hq hbuffers hy => rw [hy]; exact hx c
  | returned b y hb hbuffers hchannels hy => exact (hchannels c).1 (hx c)
  | locallyReset y hfree hwork hdelivery hbuffers hchannels hmem => rw [hchannels c]; exact hx c
  | stationReset =>
    have hreset : (x.channels.map Channel.stationReset)[c] = x.channels[c].stationReset := by simp
    rw [hreset]
    exact Channel.reset_configured _
  | reset =>
    have hreset : Capture.reset.channels[c] = Channel.reset := by simp [Capture.reset]
    rw [hreset]
    exact Channel.reset_configured 0
  | _ => exact hx c

theorem Shift.keeps_configuration {c : Option Instr} {d e : Device} (h : Shift c d e)
    (hd : d.TablesLegal ∧ ∀ c, (d.channel c).Configured) :
    e.TablesLegal ∧ ∀ c, (e.channel c).Configured :=
  ⟨h.keeps_tables hd.1, h.capture.keeps_configured hd.2⟩

/-- Settles O53, by the parts of a step: what each makes of the table and of EGRESS_CTL, and its
`CaptureShift` for the channels. -/
theorem stepKeepsConfigurationLegal : Obligations.StepKeepsConfigurationLegal := by
  intro s t htable ⟨hshare, hchannels⟩ h
  obtain ⟨⟨htable', hshare'⟩, hchannels'⟩ :=
    step_keeps Shift.keeps_configuration ⟨⟨htable, hshare⟩, hchannels⟩ h
  exact ⟨htable', hshare', hchannels'⟩

/-! ## The byte memories and the notices (R86, R97) -/

/-- The capture unit's memory is in canonical form, and its notices and the latch's agree. -/
def Capture.NoticesAgree (x : Capture) (l : Option Notice) : Prop :=
  Memory.wf x.mem ∧ (∀ w ∈ x.work, (noticeOf w).LengthsAgree)
    ∧ (∀ n ∈ x.delivery, n.LengthsAgree) ∧ ∀ n ∈ l, n.LengthsAgree

theorem CaptureShift.keeps_notices {x y : Capture} {l m : Option Notice}
    (h : CaptureShift x l y m) (hx : x.NoticesAgree l) : y.NoticesAgree m := by
  obtain ⟨hwf, hwork, hdelivery, hlatch⟩ := hx
  cases h with
  | latchEmptied => exact ⟨hwf, hwork, hdelivery, by simp⟩
  | channel ch y hheld hcfg hothers hy => rw [hy]; exact ⟨hwf, hwork, hdelivery, hlatch⟩
  | captured b rest w y hfree hw hnotice hbuffers hchannels hy =>
    rw [hy]
    refine ⟨hwf, fun v hv => ?_, hdelivery, hlatch⟩
    rcases List.mem_append.1 hv with hv | hv
    · exact hwork v hv
    · rw [List.mem_singleton.1 hv]; exact hnotice
  | copied w rest y hw hmem hbuffers hy =>
    rw [hw] at hwork
    refine ⟨hmem hwf, ?_⟩
    rw [hy]
    refine ⟨fun v hv => hwork v (List.mem_cons_of_mem _ hv), fun n hn => ?_, hlatch⟩
    rcases List.mem_append.1 hn with hn | hn
    · exact hdelivery n hn
    · rw [List.mem_singleton.1 hn]; exact hwork w List.mem_cons_self
  | taken n rest y hq hbuffers hy =>
    rw [hq] at hdelivery
    rw [hy]
    refine ⟨hwf, hwork, fun m hm => hdelivery m (List.mem_cons_of_mem _ hm), fun m hm => ?_⟩
    cases hm
    exact hdelivery n List.mem_cons_self
  | returned b y hb hbuffers hchannels hy => rw [hy]; exact ⟨hwf, hwork, hdelivery, hlatch⟩
  | locallyReset y hfree hwork' hdelivery' hbuffers hchannels hmem =>
    exact ⟨hmem hwf, by simp [hwork'], by simp [hdelivery'], by simp⟩
  | reset => exact ⟨Memory.wf_nil, by simp [Capture.reset], by simp [Capture.reset], by simp⟩
  | _ => exact ⟨hwf, hwork, hdelivery, hlatch⟩

theorem Move.keeps_launchMem {d e : Device} (h : Move d e) (hd : Memory.wf d.launch.mem) :
    Memory.wf e.launch.mem := by
  cases h with
  | reported r => rw [Device.report_launch]; exact hd
  | enabled => rw [enableBOn_frame]; exact hd
  | disabled h => rw [disableB_frame h]; exact hd
  | wentDown p v link ready tx m hon hlink htx hegress hport => rw [hegress.frame.2.1]; exact hd
  | chose p => rw [(choose_choice p d).mem]; exact hd
  | launchEnded p k sending hc => rw [(launchEnded_slots p k d).mem]; exact hd
  | enumReturned f => rw [placeEnumRet_frame]; exact hd
  | copied w rest hw => rw [completeCopy_frame]; exact hd
  | noticeTaken => rw [takeNotice_frame]; exact hd
  | locallyReset m h =>
    obtain ⟨-, ⟨-, hmem, -⟩, -⟩ := h
    rw [hmem]; exact hd
  | copyOffered h q => rw [offerCopy_frame]; exact hd
  | handedOver k hfree hlen => rw [(slotTaken_slots k d).mem]; exact hd
  | launchMem m h => exact h hd
  | _ => exact hd

theorem Shift.keeps_launchMem {c : Option Instr} {d e : Device} (h : Shift c d e)
    (hd : Memory.wf d.launch.mem) : Memory.wf e.launch.mem := by
  cases h with
  | move h => exact h.keeps_launchMem hd
  | started => rw [startRequest_frame]; exact hd
  | fullReset high h => exact Memory.wf_nil
  | recordEmptied h => rw [Device.emptyRecord_frame]; exact hd
  | _ => exact hd

theorem Shift.keeps_memories {c : Option Instr} {d e : Device} (h : Shift c d e)
    (hd : d.capture.NoticesAgree d.lap.latch ∧ Memory.wf d.launch.mem) :
    e.capture.NoticesAgree e.lap.latch ∧ Memory.wf e.launch.mem :=
  ⟨h.capture.keeps_notices hd.1, h.keeps_launchMem hd.2⟩

/-- Settles O57, by the parts of a step: each `CaptureShift` keeps the pool bytes and the notices, and
what each part makes of the launch memory. -/
theorem stepKeepsMemoriesAndNotices : Obligations.StepKeepsMemoriesAndNotices := by
  intro s t ⟨hpool, hlaunch⟩ hnotices h
  obtain ⟨⟨hpool', hnotices'⟩, hlaunch'⟩ :=
    step_keeps Shift.keeps_memories ⟨⟨hpool, hnotices⟩, hlaunch⟩ h
  exact ⟨⟨hpool', hlaunch'⟩, hnotices'⟩

/-! ## The pool's circuit (R80, R88, R89, R92, R97) -/

/-- R80, R88, R89, R92, R97: each list holds its buffers once. -/
def Capture.ListsInCircuit (x : Capture) : Prop :=
  x.free.Nodup ∧ (x.work.map WorkItem.buffer).Nodup ∧ (x.delivery.map Notice.buffer).Nodup
    ∧ ∀ b : Fin 32, (x.buffers[b].state = .pooled ↔ b ∈ x.free)
      ∧ (x.buffers[b].state = .filling ↔ b ∈ x.work.map WorkItem.buffer)
      ∧ (x.buffers[b].state = .posted ↔ b ∈ x.delivery.map Notice.buffer)

/-- Whether buffer `b` is a buffer of the channel. -/
def Capture.holds (x : Capture) (ch : Fin 8) (b : Fin 32) : Bool :=
  x.buffers[b].state ≠ .pooled ∧ x.buffers[b].channel = ch

/-- R80: HELD counts a channel's buffers. -/
def Capture.HeldCounted (x : Capture) : Prop :=
  ∀ ch : Fin 8, x.channels[ch].held = (List.finRange 32).countP (x.holds ch)

theorem Capture.poolInCircuit_iff (x : Capture) :
    x.PoolInCircuit ↔ x.ListsInCircuit ∧ x.HeldCounted :=
  ⟨fun ⟨hfree, hwork, hdelivery, hin, hheld⟩ => ⟨⟨hfree, hwork, hdelivery, hin⟩, hheld⟩,
    fun ⟨⟨hfree, hwork, hdelivery, hin⟩, hheld⟩ => ⟨hfree, hwork, hdelivery, hin, hheld⟩⟩

/-! ### The lists -/

/-- An element joins a list without repetition at its end. -/
theorem nodup_concat {α : Type} {l : List α} {a : α} (hl : l.Nodup) (ha : a ∉ l) :
    (l ++ [a]).Nodup :=
  List.nodup_append.2 ⟨hl, List.nodup_singleton a, fun b hb c hc => by
    rw [List.mem_singleton.1 hc]; rintro rfl; exact ha hb⟩

theorem Capture.pooled_listsInCircuit {y : Capture} (hfree : y.free = List.finRange 32)
    (hwork : y.work = []) (hdelivery : y.delivery = [])
    (hbuffers : ∀ b : Fin 32, y.buffers[b].state = .pooled) : y.ListsInCircuit := by
  refine ⟨by rw [hfree]; exact List.nodup_finRange 32, by simp [hwork], by simp [hdelivery],
    fun b => ?_⟩
  rw [hfree, hwork, hdelivery, hbuffers b]
  simp

/-- R86: the head of the free ring goes to the work list. -/
theorem Capture.ListsInCircuit.captured {x y : Capture} {b : Fin 32} {rest : List (Fin 32)}
    {w : WorkItem} (hx : x.ListsInCircuit) (hfree : x.free = b :: rest) (hw : w.buffer = b)
    (hbuffers : ∀ c : Fin 32, y.buffers[c] =
      if c = b then { state := .filling, channel := w.channel } else x.buffers[c])
    (hyfree : y.free = rest) (hywork : y.work = x.work ++ [w])
    (hydelivery : y.delivery = x.delivery) : y.ListsInCircuit := by
  obtain ⟨hfreeND, hworkND, hdeliveryND, hin⟩ := hx
  have hpooled : x.buffers[b].state = .pooled := (hin b).1.2 (by simp [hfree])
  have hnotwork : b ∉ x.work.map WorkItem.buffer := fun h => by
    have := (hin b).2.1.2 h; rw [hpooled] at this; cases this
  have hnotdelivery : b ∉ x.delivery.map Notice.buffer := fun h => by
    have := (hin b).2.2.2 h; rw [hpooled] at this; cases this
  rw [hfree, List.nodup_cons] at hfreeND
  have hwork : y.work.map WorkItem.buffer = x.work.map WorkItem.buffer ++ [b] := by
    rw [hywork]; simp [hw]
  refine ⟨hyfree ▸ hfreeND.2, by rw [hwork]; exact nodup_concat hworkND hnotwork,
    hydelivery ▸ hdeliveryND, fun c => ?_⟩
  have hc := hin c
  rw [hfree] at hc
  rw [hyfree, hwork, hydelivery, hbuffers c]
  by_cases hcb : c = b
  · subst hcb
    simp [hfreeND.1, hnotdelivery]
  · simpa [-Fin.getElem_fin, hcb] using hc

/-- R94: the head of the work list goes to the delivery queue. -/
theorem Capture.ListsInCircuit.copied {x y : Capture} {w : WorkItem} {rest : List WorkItem}
    (hx : x.ListsInCircuit) (hw : x.work = w :: rest)
    (hbuffers : ∀ c : Fin 32, y.buffers[c] =
      if c = w.buffer then { x.buffers[c] with state := .posted } else x.buffers[c])
    (hyfree : y.free = x.free) (hywork : y.work = rest)
    (hydelivery : y.delivery = x.delivery ++ [noticeOf w]) : y.ListsInCircuit := by
  obtain ⟨hfreeND, hworkND, hdeliveryND, hin⟩ := hx
  have hfilling : x.buffers[w.buffer].state = .filling := (hin w.buffer).2.1.2 (by simp [hw])
  have hnotfree : w.buffer ∉ x.free := fun h => by
    have := (hin w.buffer).1.2 h; rw [hfilling] at this; cases this
  have hnotdelivery : w.buffer ∉ x.delivery.map Notice.buffer := fun h => by
    have := (hin w.buffer).2.2.2 h; rw [hfilling] at this; cases this
  rw [hw, List.map_cons, List.nodup_cons] at hworkND
  have hdelivery : y.delivery.map Notice.buffer = x.delivery.map Notice.buffer ++ [w.buffer] := by
    rw [hydelivery]; simp [noticeOf]
  refine ⟨hyfree ▸ hfreeND, hywork ▸ hworkND.2,
    by rw [hdelivery]; exact nodup_concat hdeliveryND hnotdelivery, fun c => ?_⟩
  have hc := hin c
  rw [hw, List.map_cons] at hc
  rw [hyfree, hywork, hdelivery, hbuffers c]
  by_cases hcb : c = w.buffer
  · subst hcb
    simp [-List.mem_map, hworkND.1, hnotfree]
  · simpa [-Fin.getElem_fin, -List.mem_map, hcb] using hc

/-- R98: the head of the delivery queue goes to the local processor. -/
theorem Capture.ListsInCircuit.taken {x y : Capture} {n : Notice} {rest : List Notice}
    (hx : x.ListsInCircuit) (hq : x.delivery = n :: rest)
    (hbuffers : ∀ c : Fin 32, y.buffers[c] =
      if c = n.buffer then { x.buffers[c] with state := .taken } else x.buffers[c])
    (hyfree : y.free = x.free) (hywork : y.work = x.work) (hydelivery : y.delivery = rest) :
    y.ListsInCircuit := by
  obtain ⟨hfreeND, hworkND, hdeliveryND, hin⟩ := hx
  have hposted : x.buffers[n.buffer].state = .posted := (hin n.buffer).2.2.2 (by simp [hq])
  have hnotfree : n.buffer ∉ x.free := fun h => by
    have := (hin n.buffer).1.2 h; rw [hposted] at this; cases this
  have hnotwork : n.buffer ∉ x.work.map WorkItem.buffer := fun h => by
    have := (hin n.buffer).2.1.2 h; rw [hposted] at this; cases this
  rw [hq, List.map_cons, List.nodup_cons] at hdeliveryND
  refine ⟨hyfree ▸ hfreeND, hywork ▸ hworkND, hydelivery ▸ hdeliveryND.2, fun c => ?_⟩
  have hc := hin c
  rw [hq, List.map_cons] at hc
  rw [hyfree, hywork, hydelivery, hbuffers c]
  by_cases hcb : c = n.buffer
  · subst hcb
    simp [-List.mem_map, hnotwork, hnotfree, hdeliveryND.1]
  · simpa [-Fin.getElem_fin, -List.mem_map, hcb] using hc

/-- R100: a LOCAL buffer joins the free ring. -/
theorem Capture.ListsInCircuit.returned {x y : Capture} {b : Fin 32} (hx : x.ListsInCircuit)
    (hb : x.buffers[b].state = .taken)
    (hbuffers : ∀ c : Fin 32, y.buffers[c] =
      if c = b then { x.buffers[c] with state := .pooled } else x.buffers[c])
    (hyfree : y.free = x.free ++ [b]) (hywork : y.work = x.work)
    (hydelivery : y.delivery = x.delivery) : y.ListsInCircuit := by
  obtain ⟨hfreeND, hworkND, hdeliveryND, hin⟩ := hx
  have hnotfree : b ∉ x.free := fun h => by
    have := (hin b).1.2 h; rw [hb] at this; cases this
  have hnotwork : b ∉ x.work.map WorkItem.buffer := fun h => by
    have := (hin b).2.1.2 h; rw [hb] at this; cases this
  have hnotdelivery : b ∉ x.delivery.map Notice.buffer := fun h => by
    have := (hin b).2.2.2 h; rw [hb] at this; cases this
  refine ⟨by rw [hyfree]; exact nodup_concat hfreeND hnotfree, hywork ▸ hworkND,
    hydelivery ▸ hdeliveryND, fun c => ?_⟩
  have hc := hin c
  rw [hyfree, hywork, hydelivery, hbuffers c]
  by_cases hcb : c = b
  · subst hcb
    simp [-List.mem_map, hnotwork, hnotdelivery]
  · simpa [-Fin.getElem_fin, -List.mem_map, hcb] using hc

theorem CaptureShift.keeps_lists {x y : Capture} {l m : Option Notice} (h : CaptureShift x l y m)
    (hx : x.ListsInCircuit) : y.ListsInCircuit := by
  cases h with
  | channel ch y hheld hcfg hothers hy => rw [hy]; exact hx
  | captured b rest w y hfree hw hnotice hbuffers hchannels hy =>
    exact hx.captured hfree hw hbuffers (by rw [hy]) (by rw [hy]) (by rw [hy])
  | copied w rest y hw hmem hbuffers hy =>
    exact hx.copied hw hbuffers (by rw [hy]) (by rw [hy]) (by rw [hy])
  | taken n rest y hq hbuffers hy =>
    exact hx.taken hq hbuffers (by rw [hy]) (by rw [hy]) (by rw [hy])
  | returned b y hb hbuffers hchannels hy =>
    exact hx.returned hb hbuffers (by rw [hy]) (by rw [hy]) (by rw [hy])
  | locallyReset y hfree hwork hdelivery hbuffers hchannels hmem =>
    exact Capture.pooled_listsInCircuit hfree hwork hdelivery hbuffers
  | reset => exact Capture.pooled_listsInCircuit rfl rfl rfl fun b => by simp [Capture.reset]
  | _ => exact hx

/-! ### HELD -/

/-- Predicates that differ at one element of a list without repetition. -/
theorem countP_of_eq_but_at {α : Type} [DecidableEq α] {l : List α} {b : α} {P Q : α → Bool}
    (hl : l.Nodup) (hb : b ∈ l) (h : ∀ c, c ≠ b → Q c = P c) :
    l.countP Q + (if P b then 1 else 0) = l.countP P + (if Q b then 1 else 0) := by
  have hrest : (l.erase b).countP Q = (l.erase b).countP P :=
    List.countP_congr fun c hc => by rw [h c ((List.Nodup.mem_erase_iff hl).1 hc).1]
  have hperm := List.perm_cons_erase hb
  rw [hperm.countP_eq, hperm.countP_eq, List.countP_cons, List.countP_cons, hrest]
  omega

/-- A channel's buffers after a change of one buffer. -/
theorem Capture.count_holds {x y : Capture} {b : Fin 32} (ch : Fin 8)
    (h : ∀ c : Fin 32, c ≠ b → y.buffers[c] = x.buffers[c]) :
    (List.finRange 32).countP (y.holds ch) + (if x.holds ch b then 1 else 0)
      = (List.finRange 32).countP (x.holds ch) + if y.holds ch b then 1 else 0 :=
  countP_of_eq_but_at (List.nodup_finRange 32) (List.mem_finRange b) fun c hc => by
    rw [Capture.holds, Capture.holds, h c hc]

/-- A buffer that changes its state and stays with its channel does not change HELD. -/
theorem Capture.HeldCounted.moved {x y : Capture} {b : Fin 32} {st : BufferState}
    (hx : x.HeldCounted) (hbx : x.buffers[b].state ≠ .pooled) (hst : st ≠ .pooled)
    (h : ∀ c : Fin 32, y.buffers[c] =
      if c = b then { x.buffers[c] with state := st } else x.buffers[c])
    (hchannels : y.channels = x.channels) : y.HeldCounted := fun ch => by
  have hcount := Capture.count_holds (x := x) (y := y) (b := b) ch
    fun c hc => by rw [h c, if_neg hc]
  have hy : y.holds ch b = x.holds ch b := by
    rw [Capture.holds, Capture.holds, h b, if_pos rfl]
    simp [-Fin.getElem_fin, hbx, hst]
  rw [hy] at hcount
  rw [hchannels, hx ch]
  omega

theorem Capture.HeldCounted.captured {x y : Capture} {b : Fin 32} {w : WorkItem}
    (hx : x.HeldCounted) (hbx : x.buffers[b].state = .pooled)
    (h : ∀ c : Fin 32, y.buffers[c] =
      if c = b then { state := .filling, channel := w.channel } else x.buffers[c])
    (hheld : ∀ ch : Fin 8,
      y.channels[ch].held = x.channels[ch].held + if ch = w.channel then 1 else 0) :
    y.HeldCounted := fun ch => by
  have hcount := Capture.count_holds (x := x) (y := y) (b := b) ch
    fun c hc => by rw [h c, if_neg hc]
  have hxb : x.holds ch b = false := by rw [Capture.holds, hbx]; simp
  have hyb : y.holds ch b = decide (ch = w.channel) := by
    rw [Capture.holds, h b, if_pos rfl]
    simp [eq_comm]
  rw [hxb, hyb] at hcount
  rw [hheld ch, hx ch]
  simpa [eq_comm] using hcount.symm

theorem Capture.HeldCounted.returned {x y : Capture} {b : Fin 32}
    (hx : x.HeldCounted) (hbx : x.buffers[b].state ≠ .pooled)
    (h : ∀ c : Fin 32, y.buffers[c] =
      if c = b then { x.buffers[c] with state := .pooled } else x.buffers[c])
    (hheld : ∀ ch : Fin 8,
      y.channels[ch].held = x.channels[ch].held - if ch = x.buffers[b].channel then 1 else 0) :
    y.HeldCounted := fun ch => by
  have hcount := Capture.count_holds (x := x) (y := y) (b := b) ch
    fun c hc => by rw [h c, if_neg hc]
  have hxb : x.holds ch b = decide (ch = x.buffers[b].channel) := by
    rw [Capture.holds]
    simp [-Fin.getElem_fin, hbx, eq_comm]
  have hyb : y.holds ch b = false := by
    rw [Capture.holds, h b, if_pos rfl]
    simp
  rw [hxb, hyb] at hcount
  rw [hheld ch, hx ch]
  simp only [decide_eq_true_eq, Bool.false_eq_true, if_false] at hcount
  omega

theorem Capture.HeldCounted.ofNone {y : Capture} (hbuffers : ∀ b : Fin 32, y.buffers[b].state = .pooled)
    (hheld : ∀ c : Fin 8, y.channels[c].held = 0) : y.HeldCounted := fun ch => by
  rw [hheld ch]
  symm
  rw [List.countP_eq_zero]
  intro b _
  rw [Capture.holds, hbuffers b]
  simp

theorem CaptureShift.keeps_held {x y : Capture} {l m : Option Notice} (h : CaptureShift x l y m)
    (hlists : x.ListsInCircuit) (hx : x.HeldCounted) : y.HeldCounted := by
  obtain ⟨-, -, -, hin⟩ := hlists
  cases h with
  | channel ch y hheld hcfg hothers hy =>
    have held : ∀ c : Fin 8, y.channels[c].held = x.channels[c].held := fun c => by
      by_cases hc : c = ch
      · rw [hc]; exact hheld
      · rw [hothers c hc]
    rw [hy]
    exact fun c => (held c).trans (hx c)
  | captured b rest w y hfree hw hnotice hbuffers hchannels hy =>
    exact hx.captured ((hin b).1.2 (by simp [hfree])) hbuffers fun ch => (hchannels ch).2
  | copied w rest y hw hmem hbuffers hy =>
    have hfilling : x.buffers[w.buffer].state = .filling := (hin w.buffer).2.1.2 (by simp [hw])
    exact hx.moved (by rw [hfilling]; simp) (by simp) hbuffers (by rw [hy])
  | taken n rest y hq hbuffers hy =>
    have hposted : x.buffers[n.buffer].state = .posted := (hin n.buffer).2.2.2 (by simp [hq])
    exact hx.moved (by rw [hposted]; simp) (by simp) hbuffers (by rw [hy])
  | returned b y hb hbuffers hchannels hy =>
    exact hx.returned (by rw [hb]; simp) hbuffers fun ch => (hchannels ch).2
  | locallyReset y hfree hwork hdelivery hbuffers hchannels hmem =>
    exact .ofNone hbuffers fun c => by rw [hchannels c]
  | stationReset =>
    intro ch
    have hheld : (x.channels.map Channel.stationReset)[ch].held = x.channels[ch].held := by
      simp [Channel.stationReset]
    exact hheld.trans (hx ch)
  | reset =>
    exact .ofNone (fun b => by simp [Capture.reset]) fun c => by
      simp [Capture.reset, Channel.reset]
  | _ => exact hx

theorem Shift.keeps_pool {c : Option Instr} {d e : Device} (h : Shift c d e)
    (hd : d.capture.ListsInCircuit ∧ d.capture.HeldCounted) :
    e.capture.ListsInCircuit ∧ e.capture.HeldCounted :=
  ⟨h.capture.keeps_lists hd.1, h.capture.keeps_held hd.1 hd.2⟩

/-- Settles O56, by the parts of a step: each `CaptureShift` moves at most one buffer from the end of one
list to the end of the next. -/
theorem stepKeepsPoolInCircuit : Obligations.StepKeepsPoolInCircuit := by
  intro s t hs h
  rw [Capture.poolInCircuit_iff] at hs ⊢
  exact step_keeps Shift.keeps_pool hs h

end Sys2Proof.Machine

/-! SUPPORT. The node number and the replay store, the counters and the fault record under every step
(R3, R125, R154, R157, R162, R163). -/

namespace Sys2Proof.Machine

/-! ## The node number and the replay store (R3, R125, R154) -/

/-- A change of the agent that leaves its node number and keeps the store in order. -/
def Agent.Answers (a b : Agent) : Prop := b.node = a.node ∧ (a.ReplayTagged → b.ReplayTagged)

theorem Agent.Answers.trans {a b c : Agent} (h : a.Answers b) (g : b.Answers c) : a.Answers c :=
  ⟨g.1.trans h.1, fun ha => g.2 (h.2 ha)⟩

/-- R131: a reply is stored under its tag, unless that is 0. -/
theorem answerRequest_answers (tag : Byte) (payload : List Byte) (d : Device) :
    d.agent.Answers (answerRequest tag payload d).agent := by
  refine ⟨rfl, fun ha => ?_⟩
  by_cases htag : tag = 0
  · have hagent : (answerRequest tag payload d).agent
        = { d.agent with queue := d.agent.queue.tail } := by
      simp [answerRequest, Device.onAgent, Device.placeReply, htag]
    rw [hagent]
    exact ha
  · have hagent : (answerRequest tag payload d).agent
        = { d.agent with
            lastTag := tag, replay := some (composeReply tag payload d), queue := d.agent.queue.tail } := by
      simp only [answerRequest, Device.onAgent, Device.placeReply, if_neg htag]
      rfl
    rw [hagent]
    exact ⟨htag, rfl⟩

theorem runRequest_answers (q : RequestCopy) (d : Device) :
    d.agent.Answers (runRequest q d).agent := by
  unfold runRequest
  split
  · exact ⟨rfl, id⟩
  · split
    · exact answerRequest_answers _ _ _
    · exact ⟨rfl, id⟩

theorem startRequest_answers (d : Device) : d.agent.Answers (startRequest d).agent := by
  unfold startRequest
  split
  · split
    · exact ⟨rfl, id⟩
    · rename_i q rest hq
      split
      · exact runRequest_answers q (d.count .broadcasts)
      · exact runRequest_answers q d
  · exact ⟨rfl, id⟩

theorem offerCopy_answers (h : Header) (q : RequestCopy) (d : Device) :
    d.agent.Answers (offerCopy h q d).agent := by
  rcases offerCopy_cases h q d with ⟨-, e⟩ | ⟨-, e⟩
  · rw [e]
    exact Agent.Answers.trans ⟨rfl, id⟩ (startRequest_answers _)
  · rw [e, Device.report_agent]
    exact ⟨rfl, id⟩

/-- What a part of an event leaves of the node number and the store, `a` being the agent before. -/
def Agent.NodeKept (a b : Agent) : Prop :=
  (a.NodeLegal → b.NodeLegal) ∧ (a.ReplayTagged → b.ReplayTagged) ∧ (a.node ≠ 0 → b.node ≠ 0)

theorem Agent.Answers.nodeKept {a b : Agent} (h : a.Answers b) : a.NodeKept b := by
  obtain ⟨hnode, hstore⟩ := h
  rw [Agent.NodeKept, Agent.NodeLegal, Agent.NodeLegal, hnode]
  exact ⟨id, hstore, id⟩

theorem Agent.NodeKept.ofEq {a b : Agent} (h : b = a) : a.NodeKept b := by
  rw [h]; exact ⟨id, id, id⟩

theorem Move.nodeKept {d e : Device} (h : Move d e) : d.agent.NodeKept e.agent := by
  cases h with
  | reported r => exact .ofEq (Device.report_agent r d)
  | enabled => exact .ofEq (by rw [enableBOn_frame])
  | disabled h => exact .ofEq (by rw [disableB_frame h])
  | wentDown p v link ready tx m hon hlink htx hegress hport => exact .ofEq (by rw [hegress.frame.1])
  | chose p => exact .ofEq (choose_agent p d)
  | launchEnded p k sending hc => exact .ofEq (by rw [(launchEnded_slots p k d).rest]; rfl)
  | enumReturned f => exact .ofEq (by rw [placeEnumRet_frame])
  | copied w rest hw => exact .ofEq (by rw [completeCopy_frame])
  | noticeTaken => exact .ofEq (by rw [takeNotice_frame])
  | locallyReset m h =>
    obtain ⟨-, -, -, -, -, -, -, -, hagent, -⟩ := h
    exact .ofEq hagent
  | copyOffered h q => exact (offerCopy_answers h q d).nodeKept
  | batchEnded b q rest hb hq hdue =>
    exact (Agent.Answers.trans (answerRequest_answers q.tag b.payload d) ⟨rfl, id⟩).nodeKept
  | node n hlow hhigh =>
    refine ⟨fun _ => hhigh, id, fun _ h => ?_⟩
    have hzero : n.toNat = 0 := congrArg BitVec.toNat h
    omega
  | storeCleared => exact ⟨id, fun _ => rfl, id⟩
  | handedOver k hfree hlen => exact .ofEq (by rw [(slotTaken_slots k d).rest])
  | _ => exact ⟨id, id, id⟩

theorem Shift.nodeKept {c : Option Instr} {d e : Device} (h : Shift c d e) :
    d.agent.NodeKept e.agent ∨ ∃ high, c = some (.fullReset high) ∧ e.agent = Agent.reset := by
  cases h with
  | move h => exact .inl h.nodeKept
  | started => exact .inl (startRequest_answers d).nodeKept
  | fullReset high h => exact .inr ⟨high, h, rfl⟩
  | stationReset h => exact .inl ⟨id, fun _ => rfl, id⟩
  | recordEmptied h => exact .inl (.ofEq (by rw [Device.emptyRecord_frame]))
  | _ => exact .inl ⟨id, id, id⟩

theorem Shift.keeps_store {c : Option Instr} {d e : Device} (h : Shift c d e)
    (hd : d.agent.NodeLegal ∧ d.agent.ReplayTagged) :
    e.agent.NodeLegal ∧ e.agent.ReplayTagged := by
  rcases h.nodeKept with ⟨hlegal, hstore, -⟩ | ⟨high, -, hagent⟩
  · exact ⟨hlegal hd.1, hstore hd.2⟩
  · rw [hagent]
    exact ⟨Nat.zero_le 62, rfl⟩

/-- Settles O55, by the parts of a step: only the answer of a request, an enumeration, SET_NODE and the
resets touch the node number or the store. -/
theorem stepKeepsNodeAndReplay : Obligations.StepKeepsNodeAndReplay := by
  intro s t hnode hstore h
  obtain ⟨hnode', hstore'⟩ := step_keeps Shift.keeps_store ⟨hnode, hstore⟩ h
  refine ⟨hnode', hstore', fun hne hreset => ?_⟩
  refine step_keeps (P := fun d => d.agent.node ≠ 0) (fun hshift hd => ?_) hne h
  rcases hshift.nodeKept with ⟨-, -, hnode⟩ | ⟨high, hc, -⟩
  · exact hnode hd
  · exact absurd hc (hreset high)

end Sys2Proof.Machine

/-! SUPPORT. The counters and the fault record under every step (R157, R162, R163). -/

namespace Sys2Proof.Machine

/-! ## The rows of Table 13.9 -/

theorem PortCounter.place_surjective (i : Fin 13) : ∃ c : PortCounter, c.place = i := by
  fin_cases i
  exacts [⟨.framesIn, rfl⟩, ⟨.crcErr, rfl⟩, ⟨.formatErr, rfl⟩, ⟨.abortedIn, rfl⟩,
    ⟨.creditViolation, rfl⟩, ⟨.misrouted, rfl⟩, ⟨.hopExpired, rfl⟩, ⟨.tableDiscards, rfl⟩,
    ⟨.defaultHits, rfl⟩, ⟨.forwardedOut, rfl⟩, ⟨.egressDropped, rfl⟩, ⟨.linkDrops, rfl⟩,
    ⟨.creditOverrun, rfl⟩]

theorem ChannelCounter.place_surjective (i : Fin 6) : ∃ c : ChannelCounter, c.place = i := by
  fin_cases i
  exacts [⟨.captured, rfl⟩, ⟨.clipped, rfl⟩, ⟨.noBuffer, rfl⟩, ⟨.quotaDrop, rfl⟩,
    ⟨.repeatDrop, rfl⟩, ⟨.disabledDrop, rfl⟩]

/-- Every id is a counter's. -/
theorem CounterId.id_surjective (i : Fin 82) : ∃ c : CounterId, c.id = i := by
  have hi := i.isLt
  by_cases ha : i.val < 13
  · obtain ⟨c, hc⟩ := PortCounter.place_surjective ⟨i.val, ha⟩
    exact ⟨.port .a c, Fin.ext (by simp [CounterId.id, hc])⟩
  by_cases hb : i.val < 26
  · obtain ⟨c, hc⟩ := PortCounter.place_surjective ⟨i.val - 13, by omega⟩
    exact ⟨.port .b c, Fin.ext (by simp [CounterId.id, hc]; omega)⟩
  by_cases hch : i.val < 74
  · obtain ⟨c, hc⟩ := ChannelCounter.place_surjective ⟨(i.val - 26) % 6, by omega⟩
    exact ⟨.channel ⟨(i.val - 26) / 6, by omega⟩ c, Fin.ext (by simp [CounterId.id, hc]; omega)⟩
  · have hlast : ∀ j : Fin 82, 74 ≤ j.val → j = 74 ∨ j = 75 ∨ j = 76 ∨ j = 77 ∨ j = 78 ∨ j = 79
        ∨ j = 80 ∨ j = 81 := by decide
    rcases hlast i (by omega) with h | h | h | h | h | h | h | h
    exacts [⟨.requests, h.symm⟩, ⟨.replayed, h.symm⟩, ⟨.overrun, h.symm⟩, ⟨.malformed, h.symm⟩,
      ⟨.broadcasts, h.symm⟩, ⟨.launched, h.symm⟩, ⟨.launchFailed, h.symm⟩, ⟨.returnRejects, h.symm⟩]

theorem le_saturatingSucc (w : Word) : w ≤ saturatingSucc w := by
  have hw := w.isLt
  rw [BitVec.le_def, saturatingSucc_toNat]
  omega

/-! ## What a change leaves of the counters and the record -/

/-- No counter falls, a FILLED record keeps its fault, and OVERFLOW goes with the record. -/
structure Device.StatsHeld (d e : Device) : Prop where
  rises : ∀ c, d.counter c ≤ e.counter c
  kept : d.stats.record ≠ none →
    e.stats.record = d.stats.record ∧ d.stats.overflow ≤ e.stats.overflow
  agrees : d.stats.OverflowAgrees → e.stats.OverflowAgrees

theorem Device.StatsHeld.trans {d e f : Device} (h : d.StatsHeld e) (g : e.StatsHeld f) :
    d.StatsHeld f := by
  refine ⟨fun c => BitVec.le_trans (h.rises c) (g.rises c), fun hd => ?_,
    fun hd => g.agrees (h.agrees hd)⟩
  obtain ⟨hrecord, hoverflow⟩ := h.kept hd
  obtain ⟨hrecord', hoverflow'⟩ := g.kept (by rw [hrecord]; exact hd)
  exact ⟨hrecord'.trans hrecord, BitVec.le_trans hoverflow hoverflow'⟩

theorem Device.StatsHeld.ofRises {d e : Device} (hrises : ∀ c, d.counter c ≤ e.counter c)
    (hrecord : e.stats.record = d.stats.record) (hoverflow : e.stats.overflow = d.stats.overflow) :
    d.StatsHeld e := by
  refine ⟨hrises, fun _ => ⟨hrecord, by rw [hoverflow]; exact BitVec.le_refl _⟩, fun hd => ?_⟩
  rw [Stats.OverflowAgrees, hrecord, hoverflow]
  exact hd

theorem Device.StatsHeld.ofCounters {d e : Device} (hcounters : e.stats.counters = d.stats.counters)
    (hrecord : e.stats.record = d.stats.record) (hoverflow : e.stats.overflow = d.stats.overflow) :
    d.StatsHeld e :=
  .ofRises (fun c => by rw [Device.counter, Device.counter, hcounters]; exact BitVec.le_refl _)
    hrecord hoverflow

theorem Device.StatsHeld.ofStats {d e : Device} (h : e.stats = d.stats) : d.StatsHeld e :=
  .ofCounters (by rw [h]) (by rw [h]) (by rw [h])

theorem Device.StatsHeld.after {d e f : Device} (h : e.StatsHeld f) (hstats : e.stats = d.stats) :
    d.StatsHeld f := (Device.StatsHeld.ofStats hstats).trans h

theorem Device.statsHeld_count (c : CounterId) (d : Device) : d.StatsHeld (d.count c) := by
  refine .ofRises (fun x => ?_) rfl rfl
  rw [Device.countedOnly_count]
  split
  · exact le_saturatingSucc _
  · exact BitVec.le_refl _

/-- R162: the first fault is kept, and the ones after it are counted. -/
theorem Device.statsHeld_report (r : FaultReport) (d : Device) : d.StatsHeld (d.report r) := by
  refine ⟨fun c => ?_, fun hd => ?_, fun hd => ?_⟩
  · rw [Device.counter, Device.counter, Device.report_counters]
    exact BitVec.le_refl _
  · cases hrecord : d.stats.record with
    | none => exact absurd hrecord hd
    | some x =>
      by_cases hmask : d.stats.mask.getLsbD r.kind.bit = true
      · rw [Device.report, if_pos hmask, hrecord]
        refine ⟨hrecord, ?_⟩
        show d.stats.overflow ≤ if d.stats.overflow = 255 then 255 else d.stats.overflow + 1
        split
        · rename_i h; rw [h]; exact BitVec.le_refl _
        · bv_omega
      · rw [Device.report, if_neg hmask]
        exact ⟨hrecord, BitVec.le_refl _⟩
  · by_cases hmask : d.stats.mask.getLsbD r.kind.bit = true
    · cases hrecord : d.stats.record with
      | none =>
        have hsome : (d.report r).stats.record = some r := by
          rw [Device.report, if_pos hmask, hrecord]
          dsimp only
          split
          · unfold Device.raiseAlert; dsimp only; split <;> rfl
          · rfl
        intro hnone
        rw [hsome] at hnone
        cases hnone
      | some x =>
        have hsome : (d.report r).stats.record = some x := by
          rw [Device.report, if_pos hmask, hrecord]
          exact hrecord
        intro hnone
        rw [hsome] at hnone
        cases hnone
    · rw [Device.report, if_neg hmask]
      exact hd

/-! ## Slots -/

theorem completeSlot_statsHeld (p : PortId) (k : Parity) {st : SlotStatus} (d : Device)
    (h : st = .sent ∨ st = .linkDown ∨ st = .unnumbered) :
    d.StatsHeld (completeSlot p k st d) := by
  obtain ⟨-, -, -, -, -, hcounter, hrest⟩ := completeSlot_completes p k d h
  refine .ofRises (fun c => ?_) (by rw [hrest]) (by rw [hrest])
  rw [hcounter c]
  by_cases hc : c = if st = .sent then .launched else .launchFailed
  · rw [if_pos hc]; exact le_saturatingSucc _
  · rw [if_neg hc]; exact BitVec.le_refl _

theorem dealNext_statsHeld (p : PortId) (d : Device) : d.StatsHeld (dealNext p d) := by
  unfold dealNext
  dsimp only
  split
  · split
    · exact completeSlot_statsHeld p _ d (by simp)
    · split
      · exact completeSlot_statsHeld p _ d (by simp)
      · exact .ofStats rfl
  · exact .ofStats rfl

theorem dealSlots_statsHeld (p : PortId) (d : Device) : d.StatsHeld (dealSlots p d) :=
  (dealNext_statsHeld p d).trans (dealNext_statsHeld p _)

theorem Device.EgressEmptied.statsHeld {d e : Device} {p : PortId} (h : d.EgressEmptied e p) :
    d.StatsHeld e := by
  obtain ⟨-, -, -, hdropped, hothers, -, -, hstats, ⟨hkept, hdown⟩, -⟩ := h
  refine .ofRises (fun c => ?_) (by rw [hstats]) (by rw [hstats])
  by_cases hc : c = .port p .egressDropped
  · have hlt := (d.counter (.port p .egressDropped)).isLt
    rw [hc, BitVec.le_def, hdropped]
    omega
  by_cases hfailed : c = .launchFailed
  · rw [hfailed]
    by_cases hfree : (d.slot ⟨p, d.nextParity p⟩).owner = .free
    · rw [(hkept hfree).2.2]
      exact BitVec.le_refl _
    · obtain ⟨-, -, -, -, -, -, -, hcounter⟩ := hdown hfree
      have hlt := (d.counter .launchFailed).isLt
      rw [BitVec.le_def, hcounter]
      omega
  · rw [hothers c hc hfailed]
    exact BitVec.le_refl _

/-! ## Requests and copies -/

theorem startRequest_statsHeld (d : Device) : d.StatsHeld (startRequest d) := by
  have hrun : ∀ (q : RequestCopy) (d : Device), d.StatsHeld (runRequest q d) := fun q d => by
    unfold runRequest
    split
    · exact (Device.statsHeld_count .replayed d).trans (.ofStats rfl)
    · split
      · exact (Device.statsHeld_count .malformed d).trans (.ofStats rfl)
      · exact .ofStats rfl
  unfold startRequest
  split
  · split
    · exact .ofStats rfl
    · rename_i q rest hq
      split
      · exact (Device.statsHeld_count .broadcasts d).trans (hrun q _)
      · exact hrun q d
  · exact .ofStats rfl

theorem offerCopy_statsHeld (h : Header) (q : RequestCopy) (d : Device) :
    d.StatsHeld (offerCopy h q d) := by
  rcases offerCopy_cases h q d with ⟨-, e⟩ | ⟨-, e⟩
  · rw [e]
    exact (startRequest_statsHeld _).after rfl
  · rw [e]
    exact (Device.statsHeld_count .overrun d).trans (Device.statsHeld_report _ _)

theorem completeCopy_statsHeld (d : Device) : d.StatsHeld (completeCopy d) := by
  unfold completeCopy
  split
  · exact .ofStats rfl
  · rename_i w rest hw
    have hcount : ∀ e : Device, e.stats = d.stats →
        d.StatsHeld (e.countChannel w.channel .captured) := fun e he =>
      (Device.StatsHeld.ofStats he).trans (Device.statsHeld_count _ e)
    dsimp only
    split
    · exact ((hcount _ rfl).trans (Device.statsHeld_count _ _)).trans (.ofStats rfl)
    · exact (hcount _ rfl).trans (.ofStats rfl)

/-! ## The parts of a step -/

theorem Move.statsHeld {d e : Device} (h : Move d e) : d.StatsHeld e := by
  cases h with
  | counted c => exact Device.statsHeld_count c d
  | reported r => exact Device.statsHeld_report r d
  | enabled => exact .ofStats (by rw [enableBOn_frame])
  | disabled h => exact .ofStats (by rw [disableB_frame h])
  | wentDown p v link ready tx m hon hlink htx hegress hport =>
    exact hegress.statsHeld.after rfl
  | chose p =>
    have hchoice := choose_choice p d
    exact .ofCounters hchoice.counters hchoice.record hchoice.overflow
  | forwardEnded p ref sending hc =>
    exact (Device.statsHeld_count (.port p .forwardedOut) d).trans (.ofStats rfl)
  | launchEnded p k sending hc =>
    exact ((completeSlot_statsHeld p k (eofSent p d) (.inl rfl)).trans
      (dealSlots_statsHeld p _)).after rfl
  | enumReturned f => exact .ofStats (by rw [placeEnumRet_frame])
  | copied w rest hw => exact completeCopy_statsHeld d
  | noticeTaken => exact .ofStats (by rw [takeNotice_frame])
  | locallyReset m h =>
    obtain ⟨-, -, -, -, -, -, -, -, -, -, hstats, -⟩ := h
    exact .ofStats hstats
  | statsCtl mask alertEnable => exact .ofCounters rfl rfl rfl
  | copyOffered h q => exact offerCopy_statsHeld h q d
  | batchEnded b q rest hb hq hdue =>
    exact (Device.statsHeld_count .requests d).trans (.ofStats rfl)
  | handedOver k hfree hlen =>
    rw [slotTaken]
    exact (dealSlots_statsHeld k.port _).after rfl
  | _ => exact .ofStats rfl

/-- The commands that empty the record keep its OVERFLOW at 0. -/
theorem Device.emptyRecord_stats (d : Device) :
    d.emptyRecord.stats.counters = d.stats.counters ∧ d.emptyRecord.stats.record = none
      ∧ d.emptyRecord.stats.overflow = 0 := by
  unfold Device.emptyRecord Device.withdrawAlert
  split
  · exact ⟨rfl, rfl, rfl⟩
  · exact ⟨rfl, rfl, rfl⟩

theorem Shift.keeps_overflow {c : Option Instr} {d e : Device} (h : Shift c d e)
    (hd : d.stats.OverflowAgrees) : e.stats.OverflowAgrees := by
  cases h with
  | move h => exact h.statsHeld.agrees hd
  | started => exact (startRequest_statsHeld d).agrees hd
  | fullReset high h => exact fun _ => rfl
  | stationReset h => exact fun _ => rfl
  | recordEmptied h => exact fun _ => (Device.emptyRecord_stats d).2.2
  | _ => exact hd

theorem Shift.rises {c : Option Instr} {d e : Device} (h : Shift c d e)
    (hreset : ∀ high, c ≠ some (.fullReset high)) (hstation : c ≠ some .stationResetApplied)
    (hclear : ∀ id, c ≠ some (.counterRead id true)) (x : CounterId) : d.counter x ≤ e.counter x := by
  cases h with
  | move h => exact h.statsHeld.rises x
  | started => exact (startRequest_statsHeld d).rises x
  | fullReset high h => exact absurd h (hreset high)
  | stationReset h => exact absurd h hstation
  | counterCleared id i h => exact absurd h (hclear id)
  | recordEmptied h =>
    rw [Device.counter, Device.counter, (Device.emptyRecord_stats d).1]
    exact BitVec.le_refl _
  | _ => exact BitVec.le_refl _

/-- The record of `e` is the FILLED one of `x`, with no less in OVERFLOW. -/
def Stats.RecordKept (x y : Stats) : Prop :=
  x.record ≠ none ∧ y.record = x.record ∧ x.overflow ≤ y.overflow

theorem Shift.keeps_record {c : Option Instr} {d e : Device} {x : Stats} (h : Shift c d e)
    (hreset : ∀ high, c ≠ some (.fullReset high)) (hstation : c ≠ some .stationResetApplied)
    (hclear : c ≠ some (.faultRead true)) (hd : x.RecordKept d.stats) : x.RecordKept e.stats := by
  have held : d.StatsHeld e → x.RecordKept e.stats := fun h => by
    obtain ⟨hfilled, hrecord, hoverflow⟩ := hd
    obtain ⟨hrecord', hoverflow'⟩ := h.kept (by rw [hrecord]; exact hfilled)
    exact ⟨hfilled, hrecord'.trans hrecord, BitVec.le_trans hoverflow hoverflow'⟩
  cases h with
  | move h => exact held h.statsHeld
  | started => exact held (startRequest_statsHeld d)
  | fullReset high h => exact absurd h (hreset high)
  | stationReset h => exact absurd h hstation
  | recordEmptied h => exact absurd h hclear
  | _ => exact hd

/-- Settles O59, by the parts of a step: all but those of the clearing commands keep `StatsHeld`. -/
theorem countersAndRecordHeld : Obligations.CountersAndRecordHeld := by
  refine ⟨fun s t hs h => step_keeps Shift.keeps_overflow hs h, fun s t h hreset hstation => ?_⟩
  refine ⟨fun hclear i => ?_, fun hclear hrecord => ?_⟩
  · obtain ⟨x, rfl⟩ := CounterId.id_surjective i
    exact step_keeps (P := fun d => s.dev.counter x ≤ d.counter x)
      (fun hshift hd => BitVec.le_trans hd (hshift.rises hreset hstation hclear x))
      (BitVec.le_refl _) h
  · exact (step_keeps (P := fun d => s.dev.stats.RecordKept d.stats)
      (fun hshift hd => hshift.keeps_record hreset hstation hclear hd)
      ⟨hrecord, rfl, BitVec.le_refl _⟩ h).2

end Sys2Proof.Machine

/-! SUPPORT. The launch unit under every step (R108, R109, R111 to R117): what each part of an event makes of
the slots of one direction, their turn and their arbiter. -/

namespace Sys2Proof.Machine

/-! ## The turn of one direction -/

/-- The slots of one direction, the NEXT of them, the one its arbiter holds, and the link. -/
@[ext] structure Turn where
  slots : Parity → Slot
  next : Parity
  chosen : Option Parity
  online : Bool

def Device.turn (d : Device) (p : PortId) : Turn :=
  { slots := fun k => d.slot ⟨p, k⟩, next := d.nextParity p
    chosen := (d.arbiter p).chosenLaunch, online := (d.port p).online }

/-- The NEXT slot waits to be dealt with (R112). -/
def Turn.Waits (x : Turn) : Prop :=
  (x.slots x.next).owner = .waiting ∧ (x.slots x.next).offered = none

/-- What `LaunchInTurn` says of `s` as slot `k`, but that the NEXT slot does not wait. -/
structure Turn.Holds (x : Turn) (k : Parity) (s : Slot) : Prop where
  committed : s.owner = .committed ↔ x.chosen = some k
  offered : s.offered ≠ none → k = x.next ∧ s.owner ≠ .free ∧ x.online = true
  committedOffered : s.owner = .committed → s.offered ≠ none
  length : s.owner ≠ .free → s.length.toNat ≤ 1024
  numbered : ∀ o ∈ s.offered, o.source ≠ 0

def Turn.InOrder (x : Turn) : Prop := ∀ k, x.Holds k (x.slots k)

/-- `LaunchInTurn` of one direction. -/
def Turn.InTurn (x : Turn) : Prop := x.InOrder ∧ ¬ x.Waits

/-- Clause 3 of `LaunchInTurn`: the NEXT slot does not wait unoffered. -/
theorem Turn.InOrder.not_waits_iff {x : Turn} (h : x.InOrder) :
    ¬ x.Waits ↔ ((x.slots x.next).owner ≠ .free → (x.slots x.next).offered ≠ none) := by
  constructor
  · intro hw hfree hnone
    cases howner : (x.slots x.next).owner with
    | free => exact hfree howner
    | waiting => exact hw ⟨howner, hnone⟩
    | committed => exact (h _).committedOffered howner hnone
  · rintro h ⟨hwaiting, hnone⟩
    exact h (by rw [hwaiting]; simp) hnone

theorem Device.launchInTurn_iff (d : Device) : d.LaunchInTurn ↔ ∀ p, (d.turn p).InTurn := by
  constructor
  · intro h p
    obtain ⟨hcommitted, hoffered, hnext, hcommittedOffered, hlength, hnumbered⟩ := h p
    have horder : (d.turn p).InOrder := fun k =>
      ⟨hcommitted k, hoffered k, hcommittedOffered k, hlength k, hnumbered k⟩
    exact ⟨horder, horder.not_waits_iff.2 hnext⟩
  · intro h p
    obtain ⟨horder, hwaits⟩ := h p
    exact ⟨fun k => (horder k).committed, fun k => (horder k).offered, horder.not_waits_iff.1 hwaits,
      fun k => (horder k).committedOffered, fun k => (horder k).length,
      fun k => (horder k).numbered⟩

/-- With no offer made, no slot is offered and none is committed. -/
theorem Turn.InOrder.unoffered {x : Turn} (h : x.InOrder) (hnext : (x.slots x.next).offered = none)
    (k : Parity) : (x.slots k).offered = none ∧ (x.slots k).owner ≠ .committed := by
  have hnone : (x.slots k).offered = none := by
    by_contra hk
    rw [((h k).offered hk).1] at hk
    exact hk hnext
  exact ⟨hnone, fun hc => (h k).committedOffered hc hnone⟩

/-- The direction with another slot `k`. -/
def Turn.withSlot (x : Turn) (k : Parity) (s : Slot) : Turn :=
  { x with slots := fun j => if j = k then s else x.slots j }

theorem Turn.InOrder.withSlot {x : Turn} {k : Parity} {s : Slot} (h : x.InOrder)
    (hs : x.Holds k s) : (x.withSlot k s).InOrder := fun j => by
  by_cases hj : j = k
  · have hslot : (x.withSlot k s).slots j = s := if_pos hj
    rw [hslot, hj]
    exact ⟨hs.committed, hs.offered, hs.committedOffered, hs.length, hs.numbered⟩
  · have hslot : (x.withSlot k s).slots j = x.slots j := if_neg hj
    rw [hslot]
    exact ⟨(h j).committed, (h j).offered, (h j).committedOffered, (h j).length, (h j).numbered⟩

/-- A slot of the local processor, unoffered, can stand where no committed one stood. -/
theorem Turn.holds_free {x : Turn} {k : Parity} {s : Slot} (hk : x.chosen ≠ some k)
    (hs : s.owner = .free) (hoffered : s.offered = none) : x.Holds k s where
  committed := by simp [hs, hk]
  offered := by simp [hoffered]
  committedOffered := by simp [hs]
  length := by simp [hs]
  numbered := by simp [hoffered]

/-- With no offer made, any slot can be the NEXT. -/
theorem Turn.InOrder.withNext {x : Turn} (h : x.InOrder) (hnone : ∀ k, (x.slots k).offered = none)
    (j : Parity) : { x with next := j }.InOrder := fun k =>
  ⟨(h k).committed, fun hk => absurd (hnone k) hk, (h k).committedOffered, (h k).length,
    (h k).numbered⟩

/-- R116: the completion of the NEXT slot. -/
def Turn.completed (x : Turn) (st : SlotStatus) : Turn :=
  { x.withSlot x.next ((x.slots x.next).completed st) with next := x.next.other }

theorem Turn.completed_slots (x : Turn) (st : SlotStatus) (k : Parity) :
    (x.completed st).slots k =
      if k = x.next then (x.slots x.next).completed st else x.slots k := rfl

/-- The NEXT slot completes: nothing is offered then. -/
theorem Turn.InOrder.completed {x : Turn} (h : x.InOrder) (hc : x.chosen = none) (st : SlotStatus) :
    (x.completed st).InOrder := by
  refine (h.withSlot (Turn.holds_free (by simp [hc]) rfl rfl)).withNext (fun k => ?_) _
  show (if k = x.next then _ else x.slots k).offered = none
  split
  · rfl
  · rename_i hk
    by_contra hoffered
    exact hk ((h k).offered hoffered).1

/-! ## The launch unit deals with the NEXT slot -/

/-- R112, R113, R116: what dealing with the NEXT slot makes of its direction. -/
inductive Turn.Dealt (x : Turn) : Turn → Prop
  | idle (h : ¬ x.Waits) : Dealt x x
  | failed (st : SlotStatus) (h : x.Waits) : Dealt x (x.completed st)
  | offered (o : OfferedHeader) (h : x.Waits) (hon : x.online = true) (ho : o.source ≠ 0) :
      Dealt x (x.withSlot x.next { x.slots x.next with offered := some o })

/-- A direction whose NEXT slot waits holds no committed slot. -/
theorem Turn.InOrder.chosen_of_waits {x : Turn} (h : x.InOrder) (hw : x.Waits) : x.chosen = none := by
  cases hx : x.chosen with
  | none => rfl
  | some k => exact absurd ((h k).committed.2 hx) (h.unoffered hw.2 k).2

theorem Turn.Dealt.inOrder {x y : Turn} (h : x.Dealt y) (hx : x.InOrder) : y.InOrder := by
  cases h with
  | idle => exact hx
  | failed st h => exact hx.completed (hx.chosen_of_waits h) st
  | offered o h hon ho =>
    have hnext := hx x.next
    refine hx.withSlot ⟨hnext.committed, fun _ => ⟨rfl, ?_, hon⟩, fun _ => by simp, hnext.length,
      by simpa using ho⟩
    show (x.slots x.next).owner ≠ .free
    rw [h.1]
    simp

/-- R116: the two slots of a direction take turns, at most twice in one event. -/
theorem Turn.Dealt.twice {x y z : Turn} (hxy : x.Dealt y) (hyz : y.Dealt z) (hx : x.InOrder) :
    z.InTurn := by
  refine ⟨hyz.inOrder (hxy.inOrder hx), fun hz => ?_⟩
  cases hyz with
  | idle h => exact h hz
  | offered o h hon ho =>
    have hoffered := hz.2
    rw [Turn.withSlot] at hoffered
    simp at hoffered
  | failed st h =>
    cases hxy with
    | idle hidle => exact hidle h
    | offered o hw hon ho =>
      have hoffered := h.2
      rw [Turn.withSlot] at hoffered
      simp at hoffered
    | failed st' hw =>
      have hback : ((x.completed st').completed st).next = x.next := Parity.other_other x.next
      have hne : x.next ≠ (x.completed st').next := (Parity.other_ne x.next).symm
      have howner := hz.1
      rw [hback, Turn.completed_slots, if_neg hne, Turn.completed_slots, if_pos rfl] at howner
      cases howner

/-! ## The turns of the part -/

theorem Device.turn_eq {d e : Device} {p : PortId} (hlaunch : e.launch = d.launch)
    (hchosen : (e.arbiter p).chosenLaunch = (d.arbiter p).chosenLaunch)
    (honline : (e.port p).online = (d.port p).online) : e.turn p = d.turn p := by
  simp only [Device.turn, Device.slot, Device.nextParity, hlaunch, hchosen, honline]

/-- The completion of a slot of port `p` leaves the other direction. -/
theorem Device.SlotCompleted.turn_opposite {d e : Device} {k : SlotId} {st : SlotStatus}
    (h : d.SlotCompleted e k st) {q : PortId} (hq : q ≠ k.port) : e.turn q = d.turn q := by
  obtain ⟨hslots, -, hnext, -, -, -, hrest⟩ := h
  refine Turn.ext (funext fun j => ?_) ?_ ?_ ?_
  · show e.slot ⟨q, j⟩ = d.slot ⟨q, j⟩
    rw [hslots, if_neg fun h => hq (congrArg SlotId.port h)]
  · show e.launch.next.get q = d.launch.next.get q
    rw [hnext, PerPort.get_set_ne _ _ hq]
  · show (e.egress.get q).chosenLaunch = _
    rw [hrest]; rfl
  · show (e.ports.get q).online = _
    rw [hrest]; rfl

/-- The turn after a completion of the NEXT slot. -/
theorem Device.SlotCompleted.turn {d e : Device} {p : PortId} {st : SlotStatus}
    (h : d.SlotCompleted e ⟨p, d.nextParity p⟩ st) : e.turn p = (d.turn p).completed st := by
  obtain ⟨hslots, -, hnext, -, -, -, hrest⟩ := h
  refine Turn.ext (funext fun j => ?_) ?_ ?_ ?_
  · show e.slot ⟨p, j⟩ = if j = d.nextParity p then _ else d.slot ⟨p, j⟩
    rw [hslots]
    by_cases hj : j = d.nextParity p
    · subst hj
      rw [if_pos rfl, if_pos rfl]
      rfl
    · rw [if_neg fun h => hj (congrArg SlotId.parity h), if_neg hj]
  · show e.launch.next.get p = _
    rw [hnext]
    exact PerPort.get_set_self _ _ _
  · show (e.egress.get p).chosenLaunch = _
    rw [hrest]; rfl
  · show (e.ports.get p).online = _
    rw [hrest]; rfl

theorem Device.turn_onSlot (p : PortId) (k : Parity) (f : Slot → Slot) (d : Device) :
    (d.onSlot ⟨p, k⟩ f).turn p = (d.turn p).withSlot k (f (d.slot ⟨p, k⟩)) := by
  refine Turn.ext (funext fun j => ?_) rfl rfl rfl
  show (d.onSlot ⟨p, k⟩ f).slot ⟨p, j⟩ = if j = k then _ else d.slot ⟨p, j⟩
  rw [Device.slot_onSlot]
  by_cases hj : j = k
  · subst hj
    rw [if_pos rfl, if_pos rfl]
  · rw [if_neg fun h => hj (congrArg SlotId.parity h), if_neg hj]

theorem Device.turn_onSlot_opposite {k : SlotId} {q : PortId} (hq : q ≠ k.port) (f : Slot → Slot)
    (d : Device) : (d.onSlot k f).turn q = d.turn q := by
  refine Turn.ext (funext fun j => ?_) rfl rfl rfl
  show (d.onSlot k f).slot ⟨q, j⟩ = d.slot ⟨q, j⟩
  rw [Device.slot_onSlot, if_neg fun h => hq (congrArg SlotId.port h)]

theorem dealNext_dealt (p : PortId) (d : Device) :
    (d.turn p).Dealt ((dealNext p d).turn p)
      ∧ (dealNext p d).turn p.opposite = d.turn p.opposite := by
  have hne : p.opposite ≠ p := PortId.opposite_ne p
  unfold dealNext
  dsimp only
  split
  · rename_i hw
    have hw : (d.turn p).Waits := hw
    split
    · have hcompleted := completeSlot_completes p (d.nextParity p) d (st := .linkDown) (by simp)
      rw [hcompleted.turn, hcompleted.turn_opposite hne]
      exact ⟨.failed _ hw, rfl⟩
    · rename_i hon
      split
      · have hcompleted := completeSlot_completes p (d.nextParity p) d (st := .unnumbered) (by simp)
        rw [hcompleted.turn, hcompleted.turn_opposite hne]
        exact ⟨.failed _ hw, rfl⟩
      · rename_i hnode
        rw [offerSlot, Device.turn_onSlot, Device.turn_onSlot_opposite hne]
        have honline : (d.port p).online = true := by simpa using hon
        refine ⟨.offered _ hw honline (fun h => hnode ?_), rfl⟩
        have hsource : (d.agent.node.setWidth 8 : Byte) = 0 := h
        bv_omega
  · rename_i hw
    exact ⟨.idle hw, rfl⟩

theorem dealSlots_inTurn {p : PortId} {d : Device} (h : (d.turn p).InOrder) :
    ((dealSlots p d).turn p).InTurn
      ∧ (dealSlots p d).turn p.opposite = d.turn p.opposite := by
  obtain ⟨hfirst, hother⟩ := dealNext_dealt p d
  obtain ⟨hsecond, hother'⟩ := dealNext_dealt p (dealNext p d)
  exact ⟨hfirst.twice hsecond h, hother'.trans hother⟩

/-! ## The parts of a step -/

theorem Device.LaunchInTurn.ofTurns {d e : Device} (hd : d.LaunchInTurn)
    (h : ∀ q, e.turn q = d.turn q) : e.LaunchInTurn := by
  rw [Device.launchInTurn_iff] at hd ⊢
  intro q
  rw [h q]
  exact hd q

/-- The parts that concern one direction alone. -/
theorem Device.LaunchInTurn.ofTurn {d e : Device} (hd : d.LaunchInTurn) (p : PortId)
    (hp : (d.turn p).InTurn → (e.turn p).InTurn)
    (hother : e.turn p.opposite = d.turn p.opposite) : e.LaunchInTurn := by
  rw [Device.launchInTurn_iff] at hd ⊢
  intro q
  rcases PortId.eq_or_opposite p q with rfl | rfl
  · exact hp (hd q)
  · rw [hother]
    exact hd _

theorem Device.LaunchInTurn.ofSame {d e : Device} (hd : d.LaunchInTurn)
    (hlaunch : e.launch = d.launch) (hegress : e.egress = d.egress) (hports : e.ports = d.ports) :
    e.LaunchInTurn :=
  hd.ofTurns fun q => Device.turn_eq hlaunch (by rw [Device.arbiter_of_egress hegress])
    (by rw [Device.port_of_ports hports])

theorem Turn.InTurn.online {x : Turn} (h : x.InTurn) : { x with online := true }.InTurn := by
  obtain ⟨horder, hwaits⟩ := h
  refine ⟨fun k => ?_, hwaits⟩
  obtain ⟨hcommitted, hoffered, hcommittedOffered, hlength, hnumbered⟩ := horder k
  exact ⟨hcommitted, fun hk => ⟨(hoffered hk).1, (hoffered hk).2.1, rfl⟩, hcommittedOffered, hlength,
    hnumbered⟩

/-- An update of a port that keeps it ONLINE or not. -/
theorem Device.turn_onPort {p : PortId} {f : Port → Port} {d : Device}
    (h : (f (d.port p)).online = (d.port p).online) (q : PortId) : (d.onPort p f).turn q = d.turn q := by
  refine Device.turn_eq rfl rfl ?_
  rw [Device.port_onPort]
  split
  · rename_i hq; rw [hq]; exact h
  · rfl

/-- An update of an arbiter that leaves it the same launched frame. -/
theorem Device.turn_onArbiter {p : PortId} {f : Egress → Egress} {d : Device}
    (h : (f (d.arbiter p)).chosenLaunch = (d.arbiter p).chosenLaunch) (q : PortId) :
    (d.onArbiter p f).turn q = d.turn q := by
  refine Device.turn_eq rfl ?_ rfl
  rw [Device.arbiter_onArbiter]
  split
  · rename_i hq; rw [hq]; exact h
  · rfl

/-- An EOF of a frame that no slot holds. -/
theorem eofSent_turn {p : PortId} {d : Device} (h : (d.arbiter p).chosenLaunch = none) (q : PortId) :
    (eofSent p d).turn q = d.turn q := by
  refine (Device.turn_onArbiter ?_ q).trans (Device.turn_onPort rfl q)
  exact h.symm

/-- R115: the offered slot becomes COMMITTED. -/
def Turn.commit (x : Turn) : Turn :=
  { x.withSlot x.next { x.slots x.next with owner := .committed } with chosen := some x.next }

theorem Turn.commit_slots (x : Turn) (k : Parity) : x.commit.slots k =
    if k = x.next then { x.slots x.next with owner := .committed } else x.slots k := rfl

theorem Turn.InTurn.commit {x : Turn} (h : x.InTurn) (hc : x.chosen = none)
    (hwaiting : (x.slots x.next).owner = .waiting) (hoffered : (x.slots x.next).offered ≠ none) :
    x.commit.InTurn := by
  refine ⟨fun k => ?_, fun hw => ?_⟩
  · rw [Turn.commit_slots]
    split
    · rename_i hk
      have hnext := h.1 x.next
      rw [hk]
      exact ⟨by simp [Turn.commit], fun ho => ⟨rfl, by simp, (hnext.offered ho).2.2⟩,
        fun _ => hoffered, fun _ => hnext.length (by rw [hwaiting]; simp), hnext.numbered⟩
    · rename_i hk
      obtain ⟨hcommitted, hoffered, hcommittedOffered, hlength, hnumbered⟩ := h.1 k
      refine ⟨?_, hoffered, hcommittedOffered, hlength, hnumbered⟩
      rw [hcommitted, hc]
      simp [Turn.commit, Ne.symm hk]
  · have hnext : x.commit.next = x.next := rfl
    have howner := hw.1
    rw [hnext, Turn.commit_slots, if_pos rfl] at howner
    cases howner

/-- R115: the arbiter takes the offered slot. -/
theorem chooseLaunch_inTurn {p : PortId} {k : Parity} {d : Device} (hd : d.LaunchInTurn)
    (hoffered : offeredSlot d p = some k) (hc : (d.arbiter p).chosen = none) :
    (chooseLaunch p k d).LaunchInTurn := by
  have hnone : (d.turn p).chosen = none := by
    show (d.arbiter p).chosenLaunch = none
    rw [Egress.chosenLaunch, hc]; rfl
  have hturn : k = d.nextParity p → (chooseLaunch p k d).turn p = (d.turn p).commit := by
    rintro rfl
    have hslot := Device.turn_onSlot p (d.nextParity p) (fun s => { s with owner := .committed }) d
    have hslots := congrArg Turn.slots hslot
    refine Turn.ext hslots rfl ?_ rfl
    show ((chooseLaunch p _ d).arbiter p).chosenLaunch = some (d.nextParity p)
    rw [chooseLaunch, Device.arbiter_onArbiter_self]
    rfl
  have hother : (chooseLaunch p k d).turn p.opposite = d.turn p.opposite := by
    have hslot := Device.turn_onSlot_opposite (k := ⟨p, k⟩) (PortId.opposite_ne p)
      (fun s => { s with owner := .committed }) d
    rw [← hslot]
    refine Device.turn_eq rfl ?_ rfl
    rw [chooseLaunch, Device.arbiter_onArbiter, if_neg (PortId.opposite_ne p)]
  refine hd.ofTurn p (fun hp => ?_) hother
  unfold offeredSlot at hoffered
  dsimp only at hoffered
  split at hoffered
  · rename_i h
    cases hoffered
    rw [hturn rfl]
    exact hp.commit hnone h.1 h.2
  · cases hoffered

theorem chooseForwardOrLaunch_inTurn {p : PortId} {d : Device} (hd : d.LaunchInTurn)
    (hc : (d.arbiter p).chosen = none) : (chooseForwardOrLaunch p d).LaunchInTurn := by
  have hnone : (d.arbiter p).chosenLaunch = none := by rw [Egress.chosenLaunch, hc]; rfl
  have forward : ∀ ref rest share, (chooseForward p ref rest share d).LaunchInTurn :=
    fun ref rest share => hd.ofTurns (Device.turn_onArbiter (by rw [hnone]; rfl))
  unfold chooseForwardOrLaunch
  dsimp only
  split
  · exact hd
  · exact forward _ _ _
  · rename_i hoffered
    exact chooseLaunch_inTurn hd hoffered hc
  · rename_i hoffered
    split
    · exact forward _ _ _
    · exact chooseLaunch_inTurn hd hoffered hc

theorem chooseOrigin_inTurn {d : Device} (hd : d.LaunchInTurn) (hc : (d.arbiter .a).chosen = none)
    (l : List OriginEntry) : (chooseOrigin l d).LaunchInTurn := by
  induction l generalizing d with
  | nil => exact chooseForwardOrLaunch_inTurn (d := { d with origin := [] }) hd hc
  | cons e rest ih =>
    rcases e.body.gives_or_empty d with ⟨hbody, hrecord⟩ | ⟨kind, f, hgives⟩
    · rw [chooseOrigin_of_empty_alert hbody hrecord]
      exact ih (d := d.setAlertPending false) hd hc
    · rw [chooseOrigin_of_gives hgives]
      have hnone : (d.arbiter .a).chosenLaunch = none := by rw [Egress.chosenLaunch, hc]; rfl
      exact hd.ofTurns fun q => Device.turn_onArbiter (f := fun a =>
        { a with chosen := some { frame := .origin kind f, sending := false } }) (by rw [hnone]; rfl) q

theorem choose_inTurn {d : Device} (hd : d.LaunchInTurn) (p : PortId) : (choose p d).LaunchInTurn := by
  by_cases h : (d.port p).online = true ∧ (d.arbiter p).chosen = none
  · unfold choose
    rw [if_pos h]
    cases p with
    | a => exact chooseOrigin_inTurn hd h.2 _
    | b => exact chooseForwardOrLaunch_inTurn hd h.2
  · unfold choose
    rw [if_neg h]
    exact hd

/-- A direction of which nothing is offered, with no launched frame chosen. -/
theorem Turn.holds_unoffered {x : Turn} {k : Parity} {s : Slot} (hx : x.chosen = none)
    (hcommitted : s.owner ≠ .committed) (hoffered : s.offered = none)
    (hlength : s.owner ≠ .free → s.length.toNat ≤ 1024) : x.Holds k s where
  committed := by simp [hx, hcommitted]
  offered := by simp [hoffered]
  committedOffered h := absurd h hcommitted
  length := hlength
  numbered := by simp [hoffered]

/-- A direction whose slots the local processor holds. -/
theorem Turn.inTurn_of_free {x : Turn} (hx : x.chosen = none)
    (h : ∀ k, (x.slots k).owner = .free ∧ (x.slots k).offered = none) : x.InTurn := by
  refine ⟨fun k => Turn.holds_free (by simp [hx]) (h k).1 (h k).2, fun hw => ?_⟩
  have howner := hw.1
  rw [(h x.next).1] at howner
  cases howner

/-- R117: the slots of a port that leaves ONLINE. -/
theorem Device.SlotsDown.inTurn {d e : Device} {p : PortId} (h : d.SlotsDown e p)
    (hd : (d.turn p).InTurn) (hchosen : (e.turn p).chosen = none) : (e.turn p).InTurn := by
  obtain ⟨hkept, hdown⟩ := h
  obtain ⟨horder, hwaits⟩ := hd
  by_cases hfree : (d.slot ⟨p, d.nextParity p⟩).owner = .free
  · obtain ⟨hlaunch, -, -⟩ := hkept hfree
    have hslots : (e.turn p).slots = (d.turn p).slots := by
      simp only [Device.turn, Device.slot, hlaunch]
    have hnext : (e.turn p).next = (d.turn p).next := by
      simp only [Device.turn, Device.nextParity, hlaunch]
    have hnone : ((d.turn p).slots (d.turn p).next).offered = none := by
      by_contra hoffered
      exact ((horder _).offered hoffered).2.1 hfree
    refine ⟨fun k => ?_, fun hw => hwaits ?_⟩
    · rw [hslots]
      exact Turn.holds_unoffered hchosen (horder.unoffered hnone k).2 (horder.unoffered hnone k).1
        (horder k).length
    · rw [Turn.Waits, hslots, hnext] at hw
      exact hw
  · obtain ⟨hself, hother, -⟩ := hdown hfree
    refine Turn.inTurn_of_free hchosen fun k => ?_
    show (e.slot ⟨p, k⟩).owner = .free ∧ (e.slot ⟨p, k⟩).offered = none
    by_cases hk : k = d.nextParity p
    · rw [hk, hself]
      exact ⟨rfl, rfl⟩
    · obtain rfl : k = (d.nextParity p).other := by
        revert hk; generalize d.nextParity p = j; cases k <;> cases j <;> simp [Parity.other]
      rw [hother]
      split
      · exact ⟨rfl, rfl⟩
      · rename_i hboth
        have hnone : (d.slot ⟨p, (d.nextParity p).other⟩).offered = none := by
          by_contra hoffered
          exact hk ((horder _).offered hoffered).1
        refine ⟨?_, hnone⟩
        cases howner : (d.slot ⟨p, (d.nextParity p).other⟩).owner with
        | free => rfl
        | waiting => exact absurd ⟨howner, hnone⟩ hboth
        | committed => exact absurd hnone ((horder _).committedOffered howner)

theorem Device.EgressEmptied.inTurn {d e : Device} {p : PortId} (h : d.EgressEmptied e p)
    (hd : d.LaunchInTurn) (hopposite : (e.port p.opposite).online = (d.port p.opposite).online) :
    e.LaunchInTurn := by
  obtain ⟨harbiter, hother, -, -, -, -, -, -, hdown, -⟩ := h
  have hchosen : (e.turn p).chosen = none := by
    show (e.arbiter p).chosenLaunch = none
    rw [harbiter]; rfl
  refine hd.ofTurn p (fun hp => hdown.inTurn hp hchosen) (Turn.ext (funext fun k => ?_) ?_ ?_ hopposite)
  · show e.slot ⟨p.opposite, k⟩ = d.slot ⟨p.opposite, k⟩
    by_cases hfree : (d.slot ⟨p, d.nextParity p⟩).owner = .free
    · rw [Device.slot, (hdown.1 hfree).1]; rfl
    · obtain ⟨-, -, hslots, -⟩ := hdown.2 hfree
      exact hslots k
  · show e.launch.next.get p.opposite = d.launch.next.get p.opposite
    by_cases hfree : (d.slot ⟨p, d.nextParity p⟩).owner = .free
    · rw [(hdown.1 hfree).1]
    · obtain ⟨-, -, -, -, -, hnext, -⟩ := hdown.2 hfree
      rw [hnext, PerPort.get_set_ne _ _ (PortId.opposite_ne p)]
  · show (e.arbiter p.opposite).chosenLaunch = _
    rw [hother]; rfl

/-- R74, R116: the EOF of a launched frame. -/
theorem launchEnded_inTurn {p : PortId} {k : Parity} {sending : Bool} {d : Device}
    (hd : d.LaunchInTurn) (hc : (d.arbiter p).chosen = some { frame := .launch k, sending }) :
    (dealSlots p (completeSlot p k .sent (eofSent p d))).LaunchInTurn := by
  have hturns := (Device.launchInTurn_iff d).1 hd
  obtain ⟨horder, -⟩ := hturns p
  have hchosen : (d.turn p).chosen = some k := by
    show (d.arbiter p).chosenLaunch = some k
    rw [Egress.chosenLaunch, hc]; rfl
  have hcommitted := (horder k).committed.2 hchosen
  obtain rfl : k = d.nextParity p := ((horder k).offered ((horder k).committedOffered hcommitted)).1
  have hcompleted := completeSlot_completes p (d.nextParity p) (eofSent p d) (st := .sent) (by simp)
  have hslots : (eofSent p d).turn p = { d.turn p with chosen := none } := by
    refine Turn.ext rfl rfl ?_ ?_
    · show ((eofSent p d).arbiter p).chosenLaunch = none
      rw [eofSent_arbiter, if_pos rfl]; rfl
    · show ((eofSent p d).port p).online = (d.port p).online
      rw [eofSent_port, if_pos rfl]; rfl
  have hcompletedOrder : ((completeSlot p (d.nextParity p) .sent (eofSent p d)).turn p).InOrder := by
    have hturn := Device.SlotCompleted.turn (d := eofSent p d) hcompleted
    rw [hturn, hslots]
    intro j
    rw [Turn.completed_slots]
    split
    · exact Turn.holds_free (by simp [Turn.completed, Turn.withSlot]) rfl rfl
    · rename_i hj
      have hnone : ((d.turn p).slots j).offered = none := by
        by_contra hoffered
        exact hj ((horder j).offered hoffered).1
      exact Turn.holds_unoffered rfl (fun h => (horder j).committedOffered h hnone) hnone
        (horder j).length
  obtain ⟨hp, hother⟩ := dealSlots_inTurn hcompletedOrder
  refine hd.ofTurn p (fun _ => hp) (hother.trans ?_)
  rw [hcompleted.turn_opposite (PortId.opposite_ne p)]
  refine Device.turn_eq rfl ?_ ?_
  · rw [eofSent_arbiter, if_neg (PortId.opposite_ne p)]
  · rw [eofSent_port, if_neg (PortId.opposite_ne p)]

/-- R109: a slot handed over. -/
theorem slotTaken_inTurn {k : SlotId} {d : Device} (hd : d.LaunchInTurn)
    (hfree : (d.slot k).owner = .free) (hlen : (d.slot k).length.toNat ≤ 1024) :
    (slotTaken k d).LaunchInTurn := by
  obtain ⟨p, k⟩ := k
  obtain ⟨horder, -⟩ := (Device.launchInTurn_iff d).1 hd p
  have hchosen : (d.turn p).chosen ≠ some k := fun h => by
    have hcommitted := (horder k).committed.2 h
    have howner : ((d.turn p).slots k).owner = .free := hfree
    rw [howner] at hcommitted
    cases hcommitted
  have hslot := Device.turn_onSlot p k
    (fun s => { s with status := .none, owner := .waiting, offered := none }) d
  have htaken : ((d.onSlot ⟨p, k⟩ fun s =>
      { s with status := .none, owner := .waiting, offered := none }).turn p).InOrder := by
    rw [hslot]
    refine horder.withSlot ⟨?_, by simp, by simp, fun _ => hlen, by simp⟩
    simp [hchosen]
  obtain ⟨hp, hother⟩ := dealSlots_inTurn htaken
  exact hd.ofTurn p (fun _ => hp)
    (hother.trans (Device.turn_onSlot_opposite (PortId.opposite_ne p) _ d))

/-- R116, R118: a slot that goes back to the local processor, or stays with it. -/
theorem slotFreed_inTurn {k : SlotId} {x : Slot} {d : Device} (hd : d.LaunchInTurn)
    (hk : (d.slot k).owner ≠ .committed) (hx : x.owner = .free)
    (hoffer : x.offered = none ∨ (x.offered = (d.slot k).offered ∧ (d.slot k).owner = .free)) :
    (d.onSlot k fun _ => x).LaunchInTurn := by
  obtain ⟨p, k⟩ := k
  refine hd.ofTurn p (fun ⟨horder, hwaits⟩ => ?_)
    (Device.turn_onSlot_opposite (PortId.opposite_ne p) _ d)
  have hoffered : x.offered = none := by
    rcases hoffer with h | ⟨h, hfree⟩
    · exact h
    · rw [h]
      by_contra hoffered
      exact ((horder k).offered hoffered).2.1 hfree
  rw [Device.turn_onSlot]
  refine ⟨horder.withSlot (Turn.holds_free (fun h => hk ((horder k).committed.2 h)) hx hoffered),
    fun hw => ?_⟩
  obtain ⟨howner, hnone⟩ := hw
  have hslot : ((d.turn p).withSlot k x).slots (d.turn p).next =
      if (d.turn p).next = k then x else (d.turn p).slots (d.turn p).next := rfl
  have hnext : ((d.turn p).withSlot k x).next = (d.turn p).next := rfl
  rw [hnext, hslot] at howner hnone
  split at howner
  · rw [hx] at howner; cases howner
  · rename_i hne
    rw [if_neg hne] at hnone
    exact hwaits ⟨howner, hnone⟩

theorem Device.LocallyReset.inTurn {d e : Device} (h : d.LocallyReset e) : e.LaunchInTurn := by
  obtain ⟨-, ⟨hslots, -⟩, -, -, hports, -⟩ := h
  rw [Device.launchInTurn_iff]
  intro p
  refine Turn.inTurn_of_free ?_ fun k => ?_
  · show (e.arbiter p).chosenLaunch = none
    rw [(hports p).2, Egress.chosenLaunch]
    cases hc : (d.arbiter p).chosen with
    | none => rfl
    | some c =>
      obtain ⟨frame, sending⟩ := c
      cases frame <;> rfl
  · show (e.slot ⟨p, k⟩).owner = .free ∧ (e.slot ⟨p, k⟩).offered = none
    rw [hslots]
    exact ⟨rfl, rfl⟩

theorem Device.reset_inTurn : Device.reset.LaunchInTurn := by
  rw [Device.launchInTurn_iff]
  intro p
  cases p <;> exact Turn.inTurn_of_free rfl fun k => by cases k <;> exact ⟨rfl, rfl⟩

theorem enableBOn_turn (d : Device) (p : PortId) : (enableBOn d).turn p = d.turn p := by
  unfold enableBOn
  dsimp only
  split
  · rename_i hlink
    refine Device.turn_onPort (d := { d with enableB := true }) ?_ p
    show Port.online _ = d.ports.b.online
    simp [Port.online, hlink]
  · rfl
  · rfl

theorem disableB_turn {d : Device} (h : d.ports.b.online = false) (p : PortId) :
    (disableB d).turn p = d.turn p := by
  rcases disableB_of_not_online h with ⟨e, -⟩ | ⟨-, e⟩
  · rw [e]; rfl
  · rw [e]
    exact Device.turn_onPort (p := .b) (f := fun P => { P with link := .offline })
      (d := { d with enableB := false }) h.symm p

theorem Move.keeps_turns {d e : Device} (h : Move d e) (hd : d.LaunchInTurn) : e.LaunchInTurn := by
  cases h with
  | reported r =>
    exact hd.ofSame (Device.report_launch r d) (Device.report_egress r d) (Device.report_ports r d)
  | port p Q h => exact hd.ofTurns (Device.turn_onPort h.online)
  | wentOnline p h =>
    refine hd.ofTurn p (fun hp => ?_) ?_
    · have hturn : (d.onPort p Port.goOnline).turn p = { d.turn p with online := true } := by
        refine Turn.ext rfl rfl rfl ?_
        show ((d.onPort p Port.goOnline).port p).online = true
        rw [Device.port_onPort_self, Port.goOnline]
        split <;> rfl
      rw [hturn]
      exact hp.online
    · refine Device.turn_eq rfl rfl ?_
      rw [Device.port_onPort_opposite]
  | enabled => exact hd.ofTurns (enableBOn_turn d)
  | disabled h => exact hd.ofTurns (disableB_turn h)
  | wentDown p v link ready tx m hon hlink htx hegress hport =>
    refine hegress.inTurn (d := { d with enableB := v }) hd ?_
    obtain ⟨-, -, hended, -⟩ := hegress
    rw [Port.ForwardsEnded.fields hended]
    rfl
  | chose p => exact choose_inTurn hd p
  | referred p key h label next hfree hon =>
    exact hd.ofTurns fun q => (Device.turn_onArbiter rfl q).trans (Device.turn_onPort rfl q)
  | sofSent p c blocks bytes hc hon =>
    refine hd.ofTurns fun q => (Device.turn_onArbiter ?_ q).trans (Device.turn_onPort rfl q)
    rw [Device.arbiter_onPort, Egress.chosenLaunch, Egress.chosenLaunch, hc]
    rfl
  | forwardEnded p ref sending hc =>
    refine hd.ofTurns fun q => (Device.turn_onPort rfl q).trans ?_
    have hnone : (d.arbiter p).chosenLaunch = none := by rw [Egress.chosenLaunch, hc]; rfl
    exact eofSent_turn hnone q
  | launchEnded p k sending hc => exact launchEnded_inTurn hd hc
  | originEnded p kind f sending hc hkind =>
    have hnone : (d.arbiter p).chosenLaunch = none := by rw [Egress.chosenLaunch, hc]; rfl
    exact hd.ofTurns (eofSent_turn hnone)
  | enumReturned f => rw [placeEnumRet_frame]; exact hd
  | captured p key h entry ch b rest hfree hkey =>
    refine hd.ofTurns fun q => Device.turn_eq rfl rfl ?_
    rw [captureAccept_port]
    split
    · rename_i hq; rw [hq]; rfl
    · rfl
  | copied w rest hw =>
    refine hd.ofTurns fun q => Device.turn_eq (by rw [completeCopy_frame])
      (by rw [Device.arbiter_of_egress (completeCopy_egress d)]) ?_
    rw [completeCopy_port hw]
    split
    · rfl
    · rfl
  | noticeTaken => rw [takeNotice_frame]; exact hd
  | locallyReset m h => exact h.inTurn
  | copyOffered h q => rw [offerCopy_frame]; exact hd
  | slotFreed k x hk hx hoffer => exact slotFreed_inTurn hd hk hx hoffer
  | handedOver k hfree hlen => exact slotTaken_inTurn hd hfree hlen
  | _ => exact hd

theorem Shift.keeps_turns {c : Option Instr} {d e : Device} (h : Shift c d e)
    (hd : d.LaunchInTurn) : e.LaunchInTurn := by
  cases h with
  | move h => exact h.keeps_turns hd
  | becameResident p f frame blocks hrx hcharge => exact hd.ofTurns (Device.turn_onPort rfl)
  | released p => exact hd.ofTurns (Device.turn_onPort rfl)
  | originSettled p kind f sending hc =>
    have hnone : (d.arbiter p).chosenLaunch = none := by rw [Egress.chosenLaunch, hc]; rfl
    exact hd.ofTurns (eofSent_turn hnone)
  | started => rw [startRequest_frame]; exact hd
  | fullReset high h => exact Device.reset_inTurn
  | recordEmptied h => rw [Device.emptyRecord_frame]; exact hd
  | _ => exact hd

/-- Settles O58, by the parts of a step: the launch unit's own events one direction at a time, and that
the others leave the turns. -/
theorem stepKeepsLaunchInTurn : Obligations.StepKeepsLaunchInTurn :=
  fun _ _ hs h => step_keeps Shift.keeps_turns hs h

end Sys2Proof.Machine

/-! SUPPORT. The resident frames under every step (R29, R34, R35, R63, R86): the uses of the frames of one
port, and the references and work items that hold them. -/

namespace Sys2Proof.Machine

/-! ## Keys that stand for a use -/

/-- The keys `ks` are those of the resident frames with the use `sel`, each once. -/
def Tracks (sel : Resident → Bool) (rs : List Resident) (ks : List Nat) : Prop :=
  ks.Nodup ∧ ∀ k, k ∈ ks ↔ ∃ r ∈ rs, r.key = k ∧ sel r = true

/-- A change of the resident frames that leaves the use. -/
theorem Tracks.map {sel : Resident → Bool} {rs : List Resident} {ks : List Nat}
    {f : Resident → Resident} (h : Tracks sel rs ks) (hkey : ∀ r, (f r).key = r.key)
    (hsel : ∀ r, sel (f r) = sel r) : Tracks sel (rs.map f) ks := by
  refine ⟨h.1, fun k => (h.2 k).trans ?_⟩
  simp [hkey, hsel]

/-- Frames without the use go. -/
theorem Tracks.filter {sel keep : Resident → Bool} {rs : List Resident} {ks : List Nat}
    (h : Tracks sel rs ks) (hkeep : ∀ r, sel r = true → keep r = true) :
    Tracks sel (rs.filter keep) ks := by
  refine ⟨h.1, fun k => (h.2 k).trans ⟨?_, ?_⟩⟩
  · rintro ⟨r, hr, hk, hs⟩
    exact ⟨r, List.mem_filter.2 ⟨hr, hkeep r hs⟩, hk, hs⟩
  · rintro ⟨r, hr, hk, hs⟩
    exact ⟨r, (List.mem_filter.1 hr).1, hk, hs⟩

/-- A frame without the use comes. -/
theorem Tracks.concat {sel : Resident → Bool} {rs : List Resident} {ks : List Nat} {r : Resident}
    (h : Tracks sel rs ks) (hr : sel r = false) : Tracks sel (rs ++ [r]) ks := by
  refine ⟨h.1, fun k => (h.2 k).trans ⟨?_, ?_⟩⟩
  · rintro ⟨x, hx, hk, hs⟩
    exact ⟨x, List.mem_append_left _ hx, hk, hs⟩
  · rintro ⟨x, hx, hk, hs⟩
    rcases List.mem_append.1 hx with hx | hx
    · exact ⟨x, hx, hk, hs⟩
    · rw [List.mem_singleton.1 hx, hr] at hs
      cases hs

/-- The use of one frame begins. -/
theorem Tracks.begun {sel : Resident → Bool} {rs : List Resident} {ks : List Nat} {key : Nat}
    {f : Resident → Resident} (h : Tracks sel rs ks) (hkeys : (rs.map Resident.key).Nodup)
    (hfree : ∃ r ∈ rs, r.key = key ∧ sel r = false) (hkey : ∀ r, (f r).key = r.key)
    (hsel : ∀ r, sel (f r) = (sel r || decide (r.key = key))) :
    Tracks sel (rs.map f) (ks ++ [key]) := by
  obtain ⟨r, hr, hrkey, hrsel⟩ := hfree
  have hnew : key ∉ ks := fun hk => by
    obtain ⟨x, hx, hxkey, hxsel⟩ := (h.2 key).1 hk
    have hxr : x = r := List.inj_on_of_nodup_map hkeys hx hr (hxkey.trans hrkey.symm)
    rw [hxr, hrsel] at hxsel
    cases hxsel
  refine ⟨nodup_concat h.1 hnew, fun k => ?_⟩
  have hmem : (∃ x ∈ rs.map f, x.key = k ∧ sel x = true) ↔
      ∃ x ∈ rs, x.key = k ∧ (sel x = true ∨ x.key = key) := by
    simp [hkey, hsel]
  rw [hmem, List.mem_append, List.mem_singleton, h.2 k]
  constructor
  · rintro (⟨x, hx, hk, hs⟩ | rfl)
    · exact ⟨x, hx, hk, .inl hs⟩
    · exact ⟨r, hr, hrkey, .inr hrkey⟩
  · rintro ⟨x, hx, hk, hs | hs⟩
    · exact .inl ⟨x, hx, hk, hs⟩
    · exact .inr (hk.symm.trans hs)

/-- The uses of the first frames end. -/
theorem Tracks.ended {sel : Resident → Bool} {rs : List Resident} {keys ks : List Nat}
    {f : Resident → Resident} (h : Tracks sel rs (keys ++ ks)) (hkey : ∀ r, (f r).key = r.key)
    (hsel : ∀ r, sel (f r) = (sel r && decide (r.key ∉ keys))) : Tracks sel (rs.map f) ks := by
  obtain ⟨-, hks, hapart⟩ := List.nodup_append.1 h.1
  refine ⟨hks, fun k => ?_⟩
  have hmem : (∃ x ∈ rs.map f, x.key = k ∧ sel x = true) ↔
      k ∉ keys ∧ ∃ x ∈ rs, x.key = k ∧ sel x = true := by
    simp only [List.mem_map, exists_exists_and_eq_and, hkey, hsel, Bool.and_eq_true,
      decide_eq_true_eq]
    constructor
    · rintro ⟨x, hx, rfl, hs, hk⟩
      exact ⟨hk, x, hx, rfl, hs⟩
    · rintro ⟨hk, x, hx, rfl, hs⟩
      exact ⟨x, hx, rfl, hs, hk⟩
  rw [hmem, ← h.2 k, List.mem_append]
  constructor
  · exact fun hk => ⟨fun hk' => hapart k hk' k hk rfl, .inr hk⟩
  · rintro ⟨hk, hk' | hk'⟩
    · exact absurd hk' hk
    · exact hk'

theorem Tracks.none {sel : Resident → Bool} {rs : List Resident} (h : ∀ r ∈ rs, sel r = false) :
    Tracks sel rs [] := by
  refine ⟨List.nodup_nil, fun k => ⟨fun hk => by simp at hk, ?_⟩⟩
  rintro ⟨r, hr, -, hs⟩
  rw [h r hr] at hs
  cases hs

/-! ## The frames of one port -/

/-- `ResidentsUsed` of the frames of one port, but that a frame may be without a use. -/
structure FramesKept (rs : List Resident) (fks wks : List Nat) : Prop where
  keys : (rs.map Resident.key).Nodup
  blocks : ∀ r ∈ rs, 1 ≤ r.blocks
  forwards : Tracks Resident.forwardUse rs fks
  captures : Tracks Resident.captureUse rs wks

theorem Device.residentsUsed_iff (d : Device) : d.ResidentsUsed ↔
    ∀ p, FramesKept (d.port p).residents (d.referenceKeys p) (d.workKeys p)
      ∧ ∀ r ∈ (d.port p).residents, r.inUse = true := by
  constructor
  · intro h p
    obtain ⟨hkeys, huse, hfks, hforward, hwks, hcapture⟩ := h p
    exact ⟨⟨hkeys, fun r hr => (huse r hr).2, ⟨hfks, hforward⟩, ⟨hwks, hcapture⟩⟩,
      fun r hr => (huse r hr).1⟩
  · intro h p
    obtain ⟨⟨hkeys, hblocks, ⟨hfks, hforward⟩, ⟨hwks, hcapture⟩⟩, huse⟩ := h p
    exact ⟨hkeys, fun r hr => ⟨huse r hr, hblocks r hr⟩, hfks, hforward, hwks, hcapture⟩

/-- What a move makes of the resident frames of one port, of the keys of the references to them and of
the keys of the work items that copy from them. -/
inductive UseMove (rs : List Resident) (fks wks : List Nat) :
    List Resident → List Nat → List Nat → Prop
  | same : UseMove rs fks wks rs fks wks
  | referred (key : Nat) (h : ∃ r ∈ rs, r.key = key ∧ r.forwardUse = false) :
      UseMove rs fks wks (rs.map (beginForwardOf key)) (fks ++ [key]) wks
  | forwardsEnded (keys rest : List Nat) (h : fks = keys ++ rest) :
      UseMove rs fks wks ((rs.map (Resident.lessForwards keys)).filter Resident.inUse) rest wks
  | captured (key : Nat) (h : ∃ r ∈ rs, r.key = key ∧ r.captureUse = false) :
      UseMove rs fks wks (rs.map (beginCaptureOf key)) fks (wks ++ [key])
  | copied (key : Nat) (rest : List Nat) (h : wks = key :: rest) :
      UseMove rs fks wks ((rs.map (endCaptureOf key)).filter Resident.inUse) fks rest
  | capturesEnded :
      UseMove rs fks wks ((rs.filter Resident.forwardUse).map Resident.lessCapture) fks []

theorem FramesKept.map {rs : List Resident} {fks wks fks' wks' : List Nat} {f : Resident → Resident}
    (h : FramesKept rs fks wks) (hkey : ∀ r, (f r).key = r.key) (hblocks : ∀ r, (f r).blocks = r.blocks)
    (hforwards : Tracks Resident.forwardUse (rs.map f) fks')
    (hcaptures : Tracks Resident.captureUse (rs.map f) wks') : FramesKept (rs.map f) fks' wks' where
  keys := by
    have hkeys : (rs.map f).map Resident.key = rs.map Resident.key := by simp [hkey]
    rw [hkeys]
    exact h.keys
  blocks := by simpa [hblocks] using h.blocks
  forwards := hforwards
  captures := hcaptures

/-- R34: frames without a use go. -/
theorem FramesKept.filter {rs : List Resident} {fks wks : List Nat} {keep : Resident → Bool}
    (h : FramesKept rs fks wks) (hforward : ∀ r, r.forwardUse = true → keep r = true)
    (hcapture : ∀ r, r.captureUse = true → keep r = true) : FramesKept (rs.filter keep) fks wks where
  keys := h.keys.sublist (List.Sublist.map _ List.filter_sublist)
  blocks r hr := h.blocks r (List.mem_filter.1 hr).1
  forwards := h.forwards.filter hforward
  captures := h.captures.filter hcapture

theorem FramesKept.released {rs : List Resident} {fks wks : List Nat} (h : FramesKept rs fks wks) :
    FramesKept (rs.filter Resident.inUse) fks wks :=
  h.filter (fun r hr => by simp [Resident.inUse, hr]) (fun r hr => by simp [Resident.inUse, hr])

/-- R34: a frame comes under a key of its own. -/
theorem FramesKept.concat {rs : List Resident} {fks wks : List Nat} {r : Resident}
    (h : FramesKept rs fks wks) (hkey : ∀ x ∈ rs, x.key ≠ r.key) (hblocks : 1 ≤ r.blocks)
    (hforward : r.forwardUse = false) (hcapture : r.captureUse = false) :
    FramesKept (rs ++ [r]) fks wks where
  keys := by
    rw [List.map_append]
    refine nodup_concat h.keys fun hr => ?_
    obtain ⟨x, hx, hxr⟩ := List.mem_map.1 hr
    exact hkey x hx hxr
  blocks x hx := by
    rcases List.mem_append.1 hx with hx | hx
    · exact h.blocks x hx
    · rw [List.mem_singleton.1 hx]; exact hblocks
  forwards := h.forwards.concat hforward
  captures := h.captures.concat hcapture

theorem UseMove.keeps_frames {rs rs' : List Resident} {fks wks fks' wks' : List Nat}
    (h : UseMove rs fks wks rs' fks' wks') (hd : FramesKept rs fks wks) : FramesKept rs' fks' wks' := by
  cases h with
  | same => exact hd
  | referred key h =>
    have hkey : ∀ r, (beginForwardOf key r).key = r.key := fun r => by
      unfold beginForwardOf; split <;> rfl
    refine hd.map hkey (fun r => by unfold beginForwardOf; split <;> rfl)
      (hd.forwards.begun hd.keys h hkey fun r => ?_)
      (hd.captures.map hkey fun r => by unfold beginForwardOf; split <;> rfl)
    by_cases hr : r.key = key <;> simp [beginForwardOf, hr]
  | forwardsEnded keys rest h =>
    subst h
    have hkey : ∀ r : Resident, (r.lessForwards keys).key = r.key := fun r => by
      unfold Resident.lessForwards; split <;> rfl
    refine (hd.map hkey (fun r => by unfold Resident.lessForwards; split <;> rfl)
      (hd.forwards.ended hkey fun r => ?_)
      (hd.captures.map hkey fun r => by unfold Resident.lessForwards; split <;> rfl)).released
    by_cases hr : r.key ∈ keys <;> simp [Resident.lessForwards, hr]
  | captured key h =>
    have hkey : ∀ r, (beginCaptureOf key r).key = r.key := fun r => by
      unfold beginCaptureOf; split <;> rfl
    refine hd.map hkey (fun r => by unfold beginCaptureOf; split <;> rfl)
      (hd.forwards.map hkey fun r => by unfold beginCaptureOf; split <;> rfl)
      (hd.captures.begun hd.keys h hkey fun r => ?_)
    by_cases hr : r.key = key <;> simp [beginCaptureOf, hr]
  | copied key rest h =>
    subst h
    have hkey : ∀ r, (endCaptureOf key r).key = r.key := fun r => by
      unfold endCaptureOf; split <;> rfl
    refine (hd.map hkey (fun r => by unfold endCaptureOf; split <;> rfl)
      (hd.forwards.map hkey fun r => by unfold endCaptureOf; split <;> rfl)
      (Tracks.ended (keys := [key]) hd.captures hkey fun r => ?_)).released
    by_cases hr : r.key = key <;> simp [endCaptureOf, hr]
  | capturesEnded =>
    have hkept : FramesKept (rs.map Resident.lessCapture) fks [] :=
      hd.map (fun r => rfl) (fun r => rfl) (hd.forwards.map (fun r => rfl) fun r => rfl)
        (.none fun r hr => by
          obtain ⟨x, -, rfl⟩ := List.mem_map.1 hr
          rfl)
    have hfilter : (rs.filter Resident.forwardUse).map Resident.lessCapture =
        (rs.map Resident.lessCapture).filter Resident.inUse := by
      rw [List.filter_map]
      congr 1
      exact List.filter_congr fun r _ => by simp [Resident.inUse, Resident.lessCapture]
    rw [hfilter]
    exact hkept.released

/-- Every frame left is in use. -/
theorem UseMove.keeps_used {rs rs' : List Resident} {fks wks fks' wks' : List Nat}
    (h : UseMove rs fks wks rs' fks' wks') (hd : ∀ r ∈ rs, r.inUse = true) :
    ∀ r ∈ rs', r.inUse = true := by
  cases h with
  | same => exact hd
  | referred key h =>
    intro r hr
    obtain ⟨x, hx, rfl⟩ := List.mem_map.1 hr
    unfold beginForwardOf
    split
    · rfl
    · exact hd x hx
  | captured key h =>
    intro r hr
    obtain ⟨x, hx, rfl⟩ := List.mem_map.1 hr
    unfold beginCaptureOf
    split
    · simp [Resident.inUse]
    · exact hd x hx
  | capturesEnded =>
    intro r hr
    obtain ⟨x, hx, rfl⟩ := List.mem_map.1 hr
    simp [Resident.inUse, Resident.lessCapture, (List.mem_filter.1 hx).2]
  | forwardsEnded keys rest h => exact fun r hr => (List.mem_filter.1 hr).2
  | copied key rest h => exact fun r hr => (List.mem_filter.1 hr).2

end Sys2Proof.Machine

/-! SUPPORT. The parts of a step at the resident frames (R29, R34, R35, R63, R86). -/

namespace Sys2Proof.Machine

/-! ## The references of an arbiter and the work items of a port -/

/-- The references that an arbiter holds: chosen, then queued. -/
def Egress.references (a : Egress) : List ForwardRef :=
  (a.chosen.bind fun c => c.frame.reference).toList ++ a.queue

theorem Device.referenceKeys_eq (d : Device) (p : PortId) :
    d.referenceKeys p = (d.arbiter p.opposite).references.map ForwardRef.key := rfl

/-- The end of a chosen frame that is no reference leaves the references. -/
theorem Egress.references_ended {a : Egress} {c : Chosen} (hc : a.chosen = some c)
    (h : c.frame.reference = none) : { a with chosen := none }.references = a.references := by
  rw [Egress.references, Egress.references, hc]
  simp [h]

theorem chooseForwardOrLaunch_references {p : PortId} {d : Device} (hc : (d.arbiter p).chosen = none)
    (q : PortId) : ((chooseForwardOrLaunch p d).arbiter q).references = (d.arbiter q).references := by
  rcases PortId.eq_or_opposite p q with rfl | rfl
  · have launch : ∀ k, ((chooseLaunch q k d).arbiter q).references = (d.arbiter q).references :=
      fun k => by
        rw [chooseLaunch, Device.arbiter_onArbiter_self, Egress.references, Egress.references, hc]
        rfl
    have forward : ∀ ref rest share, (d.arbiter q).queue = ref :: rest →
        ((chooseForward q ref rest share d).arbiter q).references = (d.arbiter q).references :=
      fun ref rest share hq => by
        rw [chooseForward, Device.arbiter_onArbiter_self, Egress.references, Egress.references, hc, hq]
        rfl
    unfold chooseForwardOrLaunch
    dsimp only
    split
    · rfl
    · rename_i hq _
      exact forward _ _ _ hq
    · exact launch _
    · rename_i hq _
      split
      · exact forward _ _ _ hq
      · exact launch _
  · rw [chooseForwardOrLaunch_arbiter d (PortId.opposite_ne p).symm]

theorem chooseOrigin_references {d : Device} (hc : (d.arbiter .a).chosen = none)
    (l : List OriginEntry) (q : PortId) :
    ((chooseOrigin l d).arbiter q).references = (d.arbiter q).references := by
  induction l generalizing d with
  | nil => exact chooseForwardOrLaunch_references (d := { d with origin := [] }) hc q
  | cons e rest ih =>
    rcases e.body.gives_or_empty d with ⟨hbody, hrecord⟩ | ⟨kind, f, hgives⟩
    · rw [chooseOrigin_of_empty_alert hbody hrecord]
      exact ih (d := d.setAlertPending false) hc
    · rw [chooseOrigin_of_gives hgives]
      cases q with
      | a =>
        show ({ d.arbiter .a with chosen := some _ } : Egress).references = _
        rw [Egress.references, Egress.references, hc]
        rfl
      | b => rfl

/-- R72: a choice moves a reference, and makes and drops none. -/
theorem choose_references (p : PortId) (d : Device) (q : PortId) :
    ((choose p d).arbiter q).references = (d.arbiter q).references := by
  by_cases h : (d.port p).online = true ∧ (d.arbiter p).chosen = none
  · unfold choose
    rw [if_pos h]
    cases p with
    | a => exact chooseOrigin_references h.2 _ q
    | b => exact chooseForwardOrLaunch_references h.2 q
  · unfold choose
    rw [if_neg h]

theorem eofSent_references {p : PortId} {c : Chosen} {d : Device} (hc : (d.arbiter p).chosen = some c)
    (h : c.frame.reference = none) (q : PortId) :
    ((eofSent p d).arbiter q).references = (d.arbiter q).references := by
  rw [eofSent_arbiter]
  split
  · rename_i hq
    rw [hq]
    exact Egress.references_ended hc h
  · rfl

theorem eofSent_residents (p : PortId) (d : Device) (q : PortId) :
    ((eofSent p d).port q).residents = (d.port q).residents := by
  rw [eofSent_port]
  split
  · rename_i hq; rw [hq]
  · rfl

/-! ## The moves at one port -/

/-- The change of the resident frames of port `q` and of what holds them. -/
abbrev Device.UseMoves (d e : Device) (q : PortId) : Prop :=
  UseMove (d.port q).residents (d.referenceKeys q) (d.workKeys q)
    (e.port q).residents (e.referenceKeys q) (e.workKeys q)

theorem Device.UseMoves.ofSame {d e : Device} {q : PortId}
    (hresidents : (e.port q).residents = (d.port q).residents)
    (hreferences : (e.arbiter q.opposite).references = (d.arbiter q.opposite).references)
    (hwork : e.capture.work = d.capture.work) : d.UseMoves e q := by
  have hkeys : e.workKeys q = d.workKeys q := by rw [Device.workKeys, hwork]; rfl
  have hreferenceKeys : e.referenceKeys q = d.referenceKeys q := by
    rw [Device.referenceKeys_eq, hreferences]; rfl
  rw [Device.UseMoves, hresidents, hreferenceKeys, hkeys]
  exact .same

theorem Device.UseMoves.ofBlocks {d e : Device} (q : PortId) (hports : e.ports = d.ports)
    (hegress : e.egress = d.egress) (hcapture : e.capture = d.capture) : d.UseMoves e q :=
  .ofSame (by rw [Device.port_of_ports hports]) (by rw [Device.arbiter_of_egress hegress])
    (by rw [hcapture])

theorem Device.UseMoves.onPort {p : PortId} {f : Port → Port} {d : Device}
    (h : (f (d.port p)).residents = (d.port p).residents) (q : PortId) :
    d.UseMoves (d.onPort p f) q := by
  refine .ofSame ?_ rfl rfl
  rw [Device.port_onPort]
  split
  · rename_i hq; rw [hq]; exact h
  · rfl

theorem makeReference_uses {p : PortId} {key : Nat} {h : Header} {label : Half} {next : Option Byte}
    {d : Device} (hfree : (d.port p).Unforwarded key) (q : PortId) :
    d.UseMoves (makeReference p key h label next d) q := by
  rcases PortId.eq_or_opposite p q with rfl | rfl
  · have hresidents : ((makeReference q key h label next d).port q).residents =
        (d.port q).residents.map (beginForwardOf key) := by
      rw [makeReference, Device.port_onArbiter, Device.port_onPort_self]; rfl
    have hkeys : (makeReference q key h label next d).referenceKeys q = d.referenceKeys q ++ [key] := by
      rw [Device.referenceKeys_eq, makeReference, Device.arbiter_onArbiter_self, Egress.references]
      simp [Device.referenceKeys_eq, Egress.references]
    rw [Device.UseMoves, hresidents, hkeys]
    exact .referred key hfree
  · refine .ofSame ?_ ?_ rfl
    · rw [makeReference, Device.port_onArbiter, Device.port_onPort_opposite]
    · rw [makeReference, Device.arbiter_onArbiter, PortId.opposite_opposite,
        if_neg (PortId.opposite_ne p).symm]
      rfl

theorem forwardEnded_uses {p : PortId} {ref : ForwardRef} {sending : Bool} {d : Device}
    (hc : (d.arbiter p).chosen = some { frame := .forward ref, sending }) (q : PortId) :
    d.UseMoves (((eofSent p d).count (.port p .forwardedOut)).onPort p.opposite
      (Port.endForward ref.key)) q := by
  rcases PortId.eq_or_opposite p q with rfl | rfl
  · refine .ofSame ?_ ?_ rfl
    · rw [Device.port_onPort, if_neg (PortId.opposite_ne q).symm, Device.port_count, eofSent_residents]
    · rw [Device.arbiter_onPort, Device.arbiter_count, eofSent_arbiter, if_neg (PortId.opposite_ne q)]
  · have hresidents : ((((eofSent p d).count (.port p .forwardedOut)).onPort p.opposite
        (Port.endForward ref.key)).port p.opposite).residents =
        ((d.port p.opposite).residents.map (Resident.lessForwards [ref.key])).filter
          Resident.inUse := by
      have hended : Resident.lessForwards [ref.key] = endForwardOf ref.key := by
        funext r; simp [Resident.lessForwards, endForwardOf]
      rw [Device.port_onPort_self, Device.port_count, hended, ← eofSent_residents p d]
      rfl
    have hbefore : d.referenceKeys p.opposite =
        [ref.key] ++ (d.arbiter p).queue.map ForwardRef.key := by
      rw [Device.referenceKeys_eq, PortId.opposite_opposite, Egress.references, hc]
      rfl
    have hafter : (((eofSent p d).count (.port p .forwardedOut)).onPort p.opposite
        (Port.endForward ref.key)).referenceKeys p.opposite =
        (d.arbiter p).queue.map ForwardRef.key := by
      rw [Device.referenceKeys_eq, PortId.opposite_opposite, Device.arbiter_onPort,
        Device.arbiter_count, eofSent_arbiter, if_pos rfl]
      rfl
    rw [Device.UseMoves, hresidents, hafter]
    exact .forwardsEnded _ _ hbefore

theorem captureAccept_uses {p : PortId} {key : Nat} {h : Header} {entry : Fin 64} {ch : Fin 8}
    {b : Fin 32} {rest : List (Fin 32)} {d : Device} (hkey : (d.port p).Uncaptured key) (q : PortId) :
    d.UseMoves (captureAccept p key h entry ch b rest d) q := by
  have hwork : ∃ w : WorkItem, w.port = p ∧ w.key = key
      ∧ (captureAccept p key h entry ch b rest d).capture.work = d.capture.work ++ [w] :=
    ⟨_, rfl, rfl, rfl⟩
  obtain ⟨w, hwport, hwkey, hwork⟩ := hwork
  have hreferences : (captureAccept p key h entry ch b rest d).referenceKeys q = d.referenceKeys q :=
    rfl
  have hkeys : (captureAccept p key h entry ch b rest d).workKeys q =
      d.workKeys q ++ if p = q then [key] else [] := by
    rw [Device.workKeys, hwork]
    by_cases hpq : p = q <;> simp [Device.workKeys, hwport, hwkey, hpq]
  rw [Device.UseMoves, hreferences, hkeys, captureAccept_port]
  by_cases hq : q = p
  · subst hq
    rw [if_pos rfl, if_pos rfl]
    exact .captured key hkey
  · rw [if_neg hq, if_neg (Ne.symm hq), List.append_nil]
    exact .same

theorem completeCopy_uses {w : WorkItem} {rest : List WorkItem} {d : Device}
    (hw : d.capture.work = w :: rest) (q : PortId) : d.UseMoves (completeCopy d) q := by
  have hreferences : (completeCopy d).referenceKeys q = d.referenceKeys q := by
    rw [Device.referenceKeys_eq, Device.arbiter_of_egress (completeCopy_egress d)]; rfl
  have hrest : (completeCopy d).capture.work = rest := by
    unfold completeCopy
    simp only [hw]
    split <;> rfl
  rw [Device.UseMoves, hreferences, completeCopy_port hw, Device.workKeys, Device.workKeys, hrest, hw]
  by_cases hq : q = w.port
  · subst hq
    rw [if_pos rfl]
    exact .copied w.key _ (by simp)
  · rw [if_neg hq]
    simp only [List.filter_cons, decide_eq_true_eq, if_neg (Ne.symm hq)]
    exact .same

theorem Device.LocallyReset.uses {d e : Device} (h : d.LocallyReset e) (q : PortId) :
    d.UseMoves e q := by
  obtain ⟨⟨hwork, -⟩, -, -, -, hports, -⟩ := h
  have hreferences : e.referenceKeys q = d.referenceKeys q := by
    rw [Device.referenceKeys_eq, Device.referenceKeys_eq, (hports q.opposite).2, Egress.references,
      Egress.references]
    cases hc : (d.arbiter q.opposite).chosen with
    | none => rfl
    | some c =>
      obtain ⟨frame, sending⟩ := c
      cases frame <;> rfl
  have hkeys : e.workKeys q = [] := by rw [Device.workKeys, hwork]; rfl
  rw [Device.UseMoves, hreferences, hkeys, (hports q).1]
  exact .capturesEnded

theorem Device.EgressEmptied.uses {d e : Device} {p : PortId} (h : d.EgressEmptied e p)
    (hport : (e.port p).residents = (d.port p).residents) (q : PortId) : d.UseMoves e q := by
  obtain ⟨harbiter, hother, ⟨hnone, hsome⟩, -, -, -, -, -, -, hrest⟩ := h
  have hwork : e.capture = d.capture := by rw [hrest]
  rcases PortId.eq_or_opposite p q with rfl | rfl
  · exact .ofSame hport (by rw [hother]) (by rw [hwork])
  · have hafter : e.referenceKeys p.opposite = [] := by
      rw [Device.referenceKeys_eq, PortId.opposite_opposite, harbiter]; rfl
    have hkeys : e.workKeys p.opposite = d.workKeys p.opposite := by
      rw [Device.workKeys, hwork]; rfl
    rw [Device.UseMoves, hafter, hkeys]
    by_cases hempty : d.referenceKeys p.opposite = []
    · rw [hnone hempty, hempty]
      exact .same
    · rw [hsome hempty]
      exact .forwardsEnded _ [] (List.append_nil _).symm

theorem Move.uses {d e : Device} (h : Move d e) (q : PortId) : d.UseMoves e q := by
  cases h with
  | reported r =>
    exact .ofBlocks q (Device.report_ports r d) (Device.report_egress r d) (Device.report_capture r d)
  | port p Q h => exact .onPort h.residents q
  | wentOnline p h =>
    refine .onPort ?_ q
    unfold Port.goOnline
    split <;> rfl
  | enabled =>
    unfold enableBOn
    dsimp only
    split
    · exact Device.UseMoves.onPort (d := { d with enableB := true })
        (f := fun P => { P with link := .seeking, readySent := false }) rfl q
    · exact .same
    · exact .same
  | disabled h =>
    rcases disableB_of_not_online h with ⟨e, -⟩ | ⟨-, e⟩
    · rw [e]; exact .same
    · rw [e]
      exact Device.UseMoves.onPort (d := { d with enableB := false })
        (f := fun P => { P with link := .offline }) rfl q
  | wentDown p v link ready tx m hon hlink htx hegress hport =>
    exact hegress.uses (d := { d with enableB := v }) (by rw [hport]; rfl) q
  | chose p =>
    exact .ofSame (by rw [Device.port_of_ports (choose_ports p d)]) (choose_references p d _)
      (by rw [choose_capture])
  | referred p key h label next hfree hon => exact makeReference_uses hfree q
  | sofSent p c blocks bytes hc hon =>
    refine .ofSame ?_ ?_ rfl
    · rw [Device.port_onArbiter, Device.port_onPort]
      split
      · rename_i hq; rw [hq]
      · rfl
    · rw [Device.arbiter_onArbiter]
      split
      · rename_i hq
        rw [hq, Device.arbiter_onPort, Egress.references, Egress.references, hc]
        rfl
      · rfl
  | forwardEnded p ref sending hc => exact forwardEnded_uses hc q
  | launchEnded p k sending hc =>
    have hslots := launchEnded_slots p k d
    have hports := congrArg Device.ports hslots.rest
    have hegress := congrArg Device.egress hslots.rest
    refine .ofSame ?_ ?_ (by rw [hslots.rest]; rfl)
    · rw [Device.port_of_ports hports]
      exact eofSent_residents p d q
    · rw [Device.arbiter_of_egress hegress]
      exact eofSent_references hc rfl _
  | originEnded p kind f sending hc hkind =>
    exact .ofSame (eofSent_residents p d q) (eofSent_references hc rfl _) rfl
  | enumReturned f => rw [placeEnumRet_frame]; exact .same
  | captured p key h entry ch b rest hfree hkey => exact captureAccept_uses hkey q
  | copied w rest hw => exact completeCopy_uses hw q
  | noticeTaken =>
    refine .ofSame (by rw [takeNotice_frame]; rfl) (by rw [takeNotice_frame]; rfl) ?_
    unfold takeNotice
    split <;> rfl
  | locallyReset m h => exact h.uses q
  | copyOffered h q => rw [offerCopy_frame]; exact .same
  | handedOver k hfree hlen =>
    exact .ofBlocks q (slotTaken_ports k d) (slotTaken_egress k d) (by rw [(slotTaken_slots k d).rest])
  | _ => exact .same

end Sys2Proof.Machine

/-! SUPPORT. The charges of the frames in reception and the uses of the resident frames, step by step
(R29, R34). -/

namespace Sys2Proof.Machine

/-! ## Charges (R29) -/

/-- R29: a frame in reception is charged the block count of its header. -/
def Port.ReceptionCharged (P : Port) : Prop :=
  ∀ f ∈ P.rx, ∀ n, f.charge = some n → ∃ h, f.header = some h ∧ n = h.blocks

theorem Port.ReceptionCharged.ofUncharged {P : Port} (h : ∀ f ∈ P.rx, f.charge = none) :
    P.ReceptionCharged := fun f hf n hn => by
  rw [h f hf] at hn
  cases hn

theorem Port.ReceptionCharged.ofNone {P : Port} (h : P.rx = none) : P.ReceptionCharged :=
  .ofUncharged fun f hf => by rw [h] at hf; cases hf

theorem Port.ReceptionCharged.ofRx {P Q : Port} (hP : P.ReceptionCharged) (h : Q.rx = P.rx) :
    Q.ReceptionCharged := by
  rw [Port.ReceptionCharged, h]
  exact hP

theorem PortMove.keeps_charge {P Q : Port} (h : PortMove P Q) (hkept : P.AccountKept)
    (hP : P.ReceptionCharged) : Q.ReceptionCharged := by
  obtain ⟨-, hrxs⟩ := (Port.accountKept_iff P).1 hkept
  cases h with
  | began hon hrx =>
    refine .ofUncharged fun f hf => ?_
    cases hf
    rfl
  | filled f b hrx =>
    intro g hg
    cases hg
    obtain ⟨-, -, hcharge, hheader⟩ := f.fill_kept b
    rw [hcharge, hheader]
    exact hP f hrx
  | misformed f b h hrx h8 =>
    refine .ofUncharged fun g hg => ?_
    cases hg
    exact ((hrxs f hrx).fresh_at_eight h8).2
  | violated f b h hrx h8 =>
    refine .ofUncharged fun g hg => ?_
    cases hg
    exact ((hrxs f hrx).fresh_at_eight h8).2
  | charged f b h hrx h8 hle =>
    intro g hg n hn
    cases hg
    cases hn
    exact ⟨h, rfl, rfl⟩
  | closed f hrx hcharge => exact .ofNone rfl
  | settled f hrx hcharge => exact .ofNone rfl
  | forgotten f hrx hj => exact .ofNone rfl
  | _ => exact hP.ofRx rfl

theorem LineShift.keeps_charge {P Q : Port} {a b : Egress} {v w : Bool} (h : LineShift P a v Q b w)
    (hkept : P.AccountKept) (hP : P.ReceptionCharged) : Q.ReceptionCharged := by
  cases h with
  | move h => exact h.keeps_charge hkept hP
  | wentOnline h =>
    refine hP.ofRx ?_
    unfold Port.goOnline
    split <;> rfl
  | wentDown link ready tx w hlink hon htx => exact .ofNone rfl
  | forwardsEnded keys h => exact hP.ofRx (by rw [Port.ForwardsEnded.fields h])
  | becameResident f frame blocks hrx hcharge => exact .ofNone rfl
  | reset => exact .ofNone rfl
  | _ => exact hP.ofRx rfl

/-! ## The frames under every part of a step -/

/-- What every part of a step keeps of the resident frames: the invariant, but that a frame that has just
become resident may be without a use. -/
structure Device.FramesInOrder (d : Device) : Prop where
  accounts : d.AccountsKept
  charges : ∀ p, (d.port p).ReceptionCharged
  frames : ∀ p, FramesKept (d.port p).residents (d.referenceKeys p) (d.workKeys p)

theorem blockCount_pos (n : Nat) : 1 ≤ blockCount n := by
  unfold blockCount
  omega

/-- R34: a frame becomes resident under a key that no frame has, with the blocks it was charged. -/
theorem becameResident_frames {p : PortId} {f : RxFrame} {frame : Frame} {blocks : Nat} {d : Device}
    (hd : d.FramesInOrder) (hrx : (d.port p).rx = some f) (hcharge : f.charge = some blocks)
    (q : PortId) :
    FramesKept ((d.onPort p (Port.makeResident frame blocks)).port q).residents
      (d.referenceKeys q) (d.workKeys q) := by
  rw [Device.port_onPort]
  split
  · rename_i hq
    subst hq
    obtain ⟨h, -, hblocks⟩ := hd.charges q f hrx blocks hcharge
    refine (hd.frames q).concat (fun r hr => ?_) ?_ rfl rfl
    · exact Port.freshKey_fresh (d.port q) r hr
    · rw [hblocks]
      exact blockCount_pos _
  · exact hd.frames q

theorem Shift.keeps_frames {c : Option Instr} {d e : Device} (h : Shift c d e)
    (hd : d.FramesInOrder) : e.FramesInOrder := by
  refine ⟨h.keeps_accounts hd.accounts,
    fun p => (h.line p).keeps_charge (hd.accounts p) (hd.charges p), fun p => ?_⟩
  have same : d.UseMoves e p → FramesKept (e.port p).residents (e.referenceKeys p) (e.workKeys p) :=
    fun h => h.keeps_frames (hd.frames p)
  cases h with
  | move h => exact same (h.uses p)
  | becameResident q f frame blocks hrx hcharge => exact becameResident_frames hd hrx hcharge p
  | released q =>
    rw [Device.port_onPort]
    split
    · rename_i hq
      subst hq
      exact (hd.frames p).released
    · exact hd.frames p
  | originSettled q kind f sending hc =>
    exact same (.ofSame (eofSent_residents q d p) (eofSent_references hc rfl _) rfl)
  | started => exact same (by rw [startRequest_frame]; exact .same)
  | fullReset high h =>
    have hnone : FramesKept [] [] [] :=
      ⟨List.nodup_nil, by simp, .none (by simp), .none (by simp)⟩
    cases p <;> exact hnone
  | recordEmptied h => exact same (by rw [Device.emptyRecord_frame]; exact .same)
  | _ => exact hd.frames p

/-! ## No frame without a use -/

/-- Every resident frame of port `p` has a use (R34). -/
def Device.FramesUsed (d : Device) (p : PortId) : Prop := ∀ r ∈ (d.port p).residents, r.inUse = true

theorem Device.FramesUsed.ofResidents {d e : Device} {p : PortId} (h : d.FramesUsed p)
    (hsame : (e.port p).residents = (d.port p).residents) : e.FramesUsed p := by
  rw [Device.FramesUsed, hsame]
  exact h

theorem Moves.keeps_used {d e : Device} (h : Moves d e) {p : PortId} (hd : d.FramesUsed p) :
    e.FramesUsed p :=
  h.keeps (P := fun d => d.FramesUsed p) (fun hm hx => (hm.uses p).keeps_used hx) hd

/-- R34: a frame left without a use by its dispatch is released at the end of it. -/
theorem Event.keeps_used {c : Option Instr} {d e : Device} (h : Event c d e)
    (hd : ∀ p, d.FramesUsed p) (q : PortId) : e.FramesUsed q := by
  have settled : ∀ p n, Device.FramesUsed { originSettled p d with choices := n } q := fun p n =>
    (hd q).ofResidents (eofSent_residents p d q)
  have ports : ∀ {x y : Device}, y.ports = x.ports → x.FramesUsed q → y.FramesUsed q :=
    fun hports hx => hx.ofResidents (by rw [Device.port_of_ports hports])
  cases h with
  | moves h => exact Moves.keeps_used h (hd q)
  | @arrived m n _ p f frame blocks before hrx hcharge dispatched after =>
    have hm : ∀ q, m.FramesUsed q := fun q => Moves.keeps_used before (hd q)
    refine Moves.keeps_used after ?_
    rw [Device.FramesUsed, Device.port_onPort]
    split
    · exact fun r hr => (List.mem_filter.1 hr).2
    · rename_i hq
      refine Moves.keeps_used dispatched ((hm q).ofResidents ?_)
      rw [Device.port_onPort, if_neg hq]
  | replyEnded p f sending choices hc hdue he =>
    rcases he with rfl | rfl
    · exact ports (by simp) (settled p choices)
    · exact ports (by simp) (settled p choices)
  | alertEnded p f sending choices hc hpending he =>
    rcases he with rfl | rfl
    · exact ports (by simp) (settled p choices)
    · exact ports (by simp) (settled p choices)
  | fullReset high h => cases q <;> exact fun r hr => by cases hr
  | stationReset h hdue => exact hd q
  | counterCleared id i h after =>
    have hcleared : Device.FramesUsed
      { d with stats := { d.stats with counters := d.stats.counters.set i 0 } } q := hd q
    exact Moves.keeps_used after hcleared
  | recordEmptied h after => exact Moves.keeps_used after (ports (by simp) (hd q))

/-- Settles O52, by the parts of a step: each keeps `FramesInOrder`, and only an arriving frame is without
a use, up to the end of its dispatch. -/
theorem stepKeepsResidentsUsed : Obligations.StepKeepsResidentsUsed := by
  intro s t haccounts hcharges hused h
  rw [Device.residentsUsed_iff] at hused
  have horder : s.dev.FramesInOrder := ⟨haccounts, hcharges, fun p => (hused p).1⟩
  have horder' := step_keeps Shift.keeps_frames horder h
  refine ⟨horder'.charges, (Device.residentsUsed_iff _).2 fun p => ⟨horder'.frames p, ?_⟩⟩
  exact (step_event h).keeps_used (fun q => (hused q).2) p

end Sys2Proof.Machine

/-! SUPPORT. The desk, that is the origin list with the agent and the alert that place entries in it (R66, R72,
R123, R124, R145, R168): what keeps it in order. -/

namespace Sys2Proof.Machine

/-! ## The desk -/

/-- The agent, the origin list, the origin frames that the arbiters of port A and of port B hold, and the
pending flag of the alert. -/
@[ext] structure Desk where
  agent : Agent
  list : List OriginEntry
  chosen : Option OriginKind
  other : Option OriginKind
  pending : Bool

def Device.desk (d : Device) : Desk :=
  { agent := d.agent, list := d.origin, chosen := (d.arbiter .a).chosenOrigin
    other := (d.arbiter .b).chosenOrigin, pending := d.stats.alertPending }

/-- The kinds of the entries in the list. -/
def Desk.kinds (x : Desk) : List OriginKind := x.list.map fun e => e.body.kind

theorem Device.hasOrigin_eq_true (d : Device) (k : OriginKind) :
    d.hasOrigin k = true ↔ k ∈ d.desk.kinds := by
  simp [Device.hasOrigin, Desk.kinds, Device.desk]

theorem Device.hasOrigin_eq_false (d : Device) (k : OriginKind) :
    d.hasOrigin k = false ↔ k ∉ d.desk.kinds := by
  rw [← Device.hasOrigin_eq_true, Bool.not_eq_true]

/-- The desk with another entry at the end of the list (R66). -/
def Desk.concat (x : Desk) (a : Agent) (b : OriginBody) (p : Bool) : Desk :=
  { x with agent := a, list := x.list ++ [{ body := b, chosen := false }], pending := p }

/-- The desk after the EOF of the chosen origin frame (R67, R69). -/
def Desk.settled (x : Desk) : Desk := { x with list := settleOrigin x.list, chosen := none }

theorem OriginEntry.waitingAlert_iff (e : OriginEntry) :
    e.waitingAlert = true ↔ e.body.kind = .alert ∧ e.chosen = false := by
  simp [OriginEntry.waitingAlert]

/-- Only the head can be marked, and the mark is the chosen frame's (R72). -/
def Headed : List OriginEntry → Option OriginKind → Prop
  | [], c => c = none
  | e :: rest, c => (∀ r ∈ rest, r.chosen = false) ∧ c = if e.chosen then some e.body.kind else none

/-- `OriginOrdered`. -/
structure Desk.Ordered (x : Desk) : Prop where
  kinds : x.kinds.Nodup
  headed : Headed x.list x.chosen
  other : x.other = none

/-- `AgentInTurn`, but that a request may wait with nothing before it. -/
structure Desk.Staffed (x : Desk) : Prop where
  length : x.agent.queue.length ≤ 2
  running : x.agent.batch ≠ none → x.agent.queue ≠ [] ∧ .reply ∉ x.kinds
  due : x.agent.resetDue = true → x.agent.batch = none ∧ .reply ∈ x.kinds

/-- A request waits only behind a batch or a REPLY (R124). -/
def Desk.Answering (x : Desk) : Prop :=
  x.agent.batch = none → .reply ∉ x.kinds → x.agent.queue = []

/-- `AlertFollowed`. -/
structure Desk.Alerted (x : Desk) : Prop where
  waiting : ∀ e ∈ x.list, e.waitingAlert = true → x.pending = true
  present : x.pending = true → .alert ∈ x.kinds

/-- An alert is pending that has no entry yet (R168). -/
def Desk.Owes (x : Desk) : Prop := x.pending = true ∧ .alert ∉ x.kinds

theorem Device.originKept_iff (d : Device) :
    d.OriginKept ↔ d.desk.Ordered ∧ d.desk.Staffed ∧ d.desk.Answering ∧ d.desk.Alerted := by
  have hheaded : Headed d.origin (d.arbiter .a).chosenOrigin ↔
      (∀ e ∈ d.origin.tail, e.chosen = false)
        ∧ (d.origin.head?.bind fun e => if e.chosen then some e.body.kind else none)
          = (d.arbiter .a).chosenOrigin := by
    cases d.origin with
    | nil => exact ⟨fun h => ⟨by simp, h.symm⟩, fun h => h.2.symm⟩
    | cons e rest => exact ⟨fun h => ⟨h.1, h.2.symm⟩, fun h => ⟨h.1, h.2.symm⟩⟩
  have hreply := d.hasOrigin_eq_false .reply
  have hreply' := d.hasOrigin_eq_true .reply
  have halert := d.hasOrigin_eq_true .alert
  have hwaiting : d.origin.any OriginEntry.waitingAlert = true ↔
      ∃ e ∈ d.origin, e.waitingAlert = true := List.any_eq_true
  constructor
  · rintro ⟨⟨hkinds, htail, hhead, hother⟩, ⟨hlength, hrunning, hanswering, hdue⟩, hfollows, hpresent⟩
    exact ⟨⟨hkinds, hheaded.2 ⟨htail, hhead⟩, hother⟩,
      ⟨hlength, fun hb => ⟨(hrunning hb).1, hreply.1 (hrunning hb).2⟩,
        fun hd => ⟨(hdue hd).1, hreply'.1 (hdue hd).2⟩⟩,
      fun hb hr => hanswering hb (hreply.2 hr),
      fun e he hw => hfollows (hwaiting.2 ⟨e, he, hw⟩), fun hp => halert.1 (hpresent hp)⟩
  · rintro ⟨⟨hkinds, hhead, hother⟩, ⟨hlength, hrunning, hdue⟩, hanswering, hfollows, hpresent⟩
    refine ⟨⟨hkinds, (hheaded.1 hhead).1, (hheaded.1 hhead).2, hother⟩,
      ⟨hlength, fun hb => ⟨(hrunning hb).1, hreply.2 (hrunning hb).2⟩,
        fun hb hr => hanswering hb (hreply.1 hr), fun hd => ⟨(hdue hd).1, hreply'.2 (hdue hd).2⟩⟩,
      fun hw => ?_, fun hp => halert.2 (hpresent hp)⟩
    obtain ⟨e, he, hw⟩ := hwaiting.1 hw
    exact hfollows e he hw

/-! ## What a part of an event makes of the desk -/

/-- R68, R71: an arbiter's choice at the desk. -/
inductive DeskChoice (x : Desk) : Desk → Prop
  | chose (e : OriginEntry) (rest : List OriginEntry) (hl : x.list = e :: rest)
      (hc : x.chosen = none) :
      DeskChoice x { x with list := { e with chosen := true } :: rest, chosen := some e.body.kind
                            pending := if e.body.kind = .alert then false else x.pending }
  | withdrew (e : OriginEntry) (rest : List OriginEntry) (hl : x.list = e :: rest)
      (hc : x.chosen = none) (he : e.body = .alert) :
      DeskChoice x { x with list := rest, pending := false }

/-- R124, R126, R131: the start of the next request. -/
inductive DeskStart (x : Desk) : Desk → Prop
  | idle (h : ¬(x.agent.batch = none ∧ .reply ∉ x.kinds ∧ x.agent.resetDue = false
      ∧ x.agent.queue ≠ [])) : DeskStart x x
  | replied (f : Frame) (a : Agent) (hreply : .reply ∉ x.kinds) (hq : a.queue = x.agent.queue.tail)
      (hb : a.batch = none) (hr : a.resetDue = false) :
      DeskStart x (x.concat a (.reply f) x.pending)
  | began (b : Batch) (hreply : .reply ∉ x.kinds) (hq : x.agent.queue ≠ [])
      (hr : x.agent.resetDue = false) :
      DeskStart x { x with agent := { x.agent with batch := some b } }

/-- Every move at the desk. -/
inductive DeskMove (x : Desk) : Desk → Prop
  | same : DeskMove x x
  | choice {y : Desk} (h : DeskChoice x y) : DeskMove x y
  | agent (a : Agent) (hq : a.queue = x.agent.queue) (hb : a.batch = none ↔ x.agent.batch = none)
      (hr : a.resetDue = true → x.agent.resetDue = true) : DeskMove x { x with agent := a }
  | offered (q : RequestCopy) {y : Desk} (hlength : x.agent.queue.length < 2)
      (h : DeskStart { x with agent := { x.agent with queue := x.agent.queue ++ [q] } } y) :
      DeskMove x y
  | answered (f : Frame) (a : Agent) (hrunning : x.agent.batch ≠ none)
      (hq : a.queue = x.agent.queue.tail) (hb : a.batch = none) :
      DeskMove x (x.concat a (.reply f) x.pending)
  | enumReturned (f : Frame) (h : .enumRet ∉ x.kinds) :
      DeskMove x (x.concat x.agent (.enumRet f false) x.pending)
  | enumRenewed (f : Frame) : DeskMove x { x with list := x.list.map (renewEnumRet f) }
  | alerted (h : .alert ∉ x.kinds) :
      DeskMove x (x.concat x.agent .alert true)
  | realerted (h : .alert ∈ x.kinds) : DeskMove x { x with pending := true }
  | withdrew : DeskMove x { x with list := x.list.filter fun e => !e.waitingAlert, pending := false }
  | returned (k : OriginKind) (h : x.chosen = some k) :
      DeskMove x { x with list := x.list.map unchoose, chosen := none
                          pending := x.pending || decide (k = .alert) }
  | settled (k : OriginKind) (h : x.chosen = some k) (hk : k = .enumRet ∨ k = .alert ∧ x.pending = false) :
      DeskMove x x.settled

/-! ## The order of the list -/

theorem Headed.unmarked {l : List OriginEntry} (h : Headed l none) : ∀ e ∈ l, e.chosen = false := by
  cases l with
  | nil => simp
  | cons e rest =>
    obtain ⟨hrest, hhead⟩ := h
    intro r hr
    rcases List.mem_cons.1 hr with rfl | hr
    · by_contra hmarked
      rw [if_pos (by simpa using hmarked)] at hhead
      cases hhead
    · exact hrest r hr

theorem headed_none_of_unmarked {l : List OriginEntry} (h : ∀ e ∈ l, e.chosen = false) :
    Headed l none := by
  cases l with
  | nil => rfl
  | cons e rest =>
    refine ⟨fun r hr => h r (List.mem_cons_of_mem _ hr), ?_⟩
    rw [h e List.mem_cons_self]
    rfl

/-- The marked entry of a chosen frame. -/
theorem Headed.marked {l : List OriginEntry} {k : OriginKind} (h : Headed l (some k)) :
    ∃ e rest, l = e :: rest ∧ e.chosen = true ∧ e.body.kind = k ∧ ∀ r ∈ rest, r.chosen = false := by
  cases l with
  | nil => cases h
  | cons e rest =>
    obtain ⟨hrest, hhead⟩ := h
    by_cases hmarked : e.chosen = true
    · rw [if_pos hmarked] at hhead
      cases hhead
      exact ⟨e, rest, rfl, hmarked, rfl, hrest⟩
    · rw [if_neg hmarked] at hhead
      cases hhead

theorem Headed.concat {l : List OriginEntry} {c : Option OriginKind} {b : OriginBody}
    (h : Headed l c) : Headed (l ++ [{ body := b, chosen := false }]) c := by
  cases l with
  | nil => exact ⟨by simp, h⟩
  | cons e rest =>
    obtain ⟨hrest, hhead⟩ := h
    refine ⟨fun r hr => ?_, hhead⟩
    rcases List.mem_append.1 hr with hr | hr
    · exact hrest r hr
    · rw [List.mem_singleton.1 hr]

theorem Headed.map {l : List OriginEntry} {c : Option OriginKind} {f : OriginEntry → OriginEntry}
    (h : Headed l c) (hkind : ∀ e, (f e).body.kind = e.body.kind)
    (hchosen : ∀ e, (f e).chosen = e.chosen) : Headed (l.map f) c := by
  cases l with
  | nil => exact h
  | cons e rest =>
    obtain ⟨hrest, hhead⟩ := h
    refine ⟨fun r hr => ?_, ?_⟩
    · obtain ⟨x, hx, rfl⟩ := List.mem_map.1 hr
      rw [hchosen]
      exact hrest x hx
    · rw [hkind, hchosen]
      exact hhead

/-- Entries that are not marked go. -/
theorem Headed.filter {l : List OriginEntry} {c : Option OriginKind} {keep : OriginEntry → Bool}
    (h : Headed l c) (hkeep : ∀ e, e.chosen = true → keep e = true) : Headed (l.filter keep) c := by
  cases l with
  | nil => exact h
  | cons e rest =>
    have ⟨hrest, hhead⟩ := h
    by_cases hk : keep e = true
    · rw [List.filter_cons, if_pos hk]
      exact ⟨fun r hr => hrest r (List.mem_filter.1 hr).1, hhead⟩
    · have hunmarked : ¬ e.chosen = true := fun he => hk (hkeep e he)
      rw [List.filter_cons, if_neg hk, hhead, if_neg hunmarked]
      exact headed_none_of_unmarked fun r hr => hrest r (List.mem_filter.1 hr).1

theorem settleOrigin_unmarked {l : List OriginEntry} (h : ∀ e ∈ l, e.chosen = false) :
    settleOrigin l = l := by
  induction l with
  | nil => rfl
  | cons e rest ih =>
    have hrest := ih fun r hr => h r (List.mem_cons_of_mem _ hr)
    rw [settleOrigin, List.filterMap_cons, h e List.mem_cons_self]
    exact congrArg (e :: ·) hrest

/-- R67, R69: the marked head goes, or comes back unmarked when it is a renewed enumeration return. -/
theorem settleOrigin_marked {e : OriginEntry} {rest : List OriginEntry} (he : e.chosen = true)
    (hrest : ∀ r ∈ rest, r.chosen = false) :
    settleOrigin (e :: rest) = rest
      ∨ e.body.kind = .enumRet
        ∧ ∃ f, settleOrigin (e :: rest) = { body := .enumRet f false, chosen := false } :: rest := by
  have htail := settleOrigin_unmarked hrest
  obtain ⟨body, chosen⟩ := e
  cases he
  cases body with
  | reply f => exact .inl htail
  | alert => exact .inl htail
  | enumRet f renewed =>
    cases renewed with
    | false => exact .inl htail
    | true => exact .inr ⟨rfl, f, congrArg (_ :: ·) htail⟩

theorem unchoose_kind (e : OriginEntry) : (unchoose e).body.kind = e.body.kind := by
  obtain ⟨body, chosen⟩ := e
  cases body <;> cases chosen <;> rfl

theorem unchoose_chosen (e : OriginEntry) : (unchoose e).chosen = false := by
  obtain ⟨body, chosen⟩ := e
  cases body <;> cases chosen <;> rfl

theorem renewEnumRet_kind (f : Frame) (e : OriginEntry) :
    (renewEnumRet f e).body.kind = e.body.kind := by
  obtain ⟨body, chosen⟩ := e
  cases body <;> rfl

theorem renewEnumRet_chosen (f : Frame) (e : OriginEntry) : (renewEnumRet f e).chosen = e.chosen := by
  obtain ⟨body, chosen⟩ := e
  cases body <;> rfl

theorem kinds_map {f : OriginEntry → OriginEntry} (hf : ∀ e, (f e).body.kind = e.body.kind)
    (l : List OriginEntry) :
    (l.map f).map (fun e => e.body.kind) = l.map fun e => e.body.kind := by simp [hf]

theorem kinds_concat (l : List OriginEntry) (e : OriginEntry) :
    (l ++ [e]).map (fun e => e.body.kind) = l.map (fun e => e.body.kind) ++ [e.body.kind] := by simp

/-! ## The kinds in the list -/

/-- The kinds in `l`. -/
abbrev kindsOf (l : List OriginEntry) : List OriginKind := l.map fun e => e.body.kind

theorem kindsOf_settled {l : List OriginEntry} {k : OriginKind} (h : Headed l (some k)) :
    (kindsOf (settleOrigin l)).Sublist (kindsOf l)
      ∧ (∀ j, j ≠ k → (j ∈ kindsOf (settleOrigin l) ↔ j ∈ kindsOf l))
      ∧ (∀ e ∈ settleOrigin l, e.chosen = false)
      ∧ ((kindsOf l).Nodup → k ≠ .enumRet → k ∉ kindsOf (settleOrigin l))
      ∧ ∀ e ∈ settleOrigin l, e.waitingAlert = true → e ∈ l := by
  obtain ⟨e, rest, rfl, he, rfl, hrest⟩ := h.marked
  rcases settleOrigin_marked he hrest with hs | ⟨hk, f, hs⟩
  · rw [hs]
    refine ⟨List.sublist_cons_self _ _, fun j hj => ?_, hrest, fun hnodup _ => ?_,
      fun r hr _ => List.mem_cons_of_mem _ hr⟩
    · exact ⟨List.mem_cons_of_mem _, fun h => (List.mem_cons.1 h).resolve_left hj⟩
    · exact (List.nodup_cons.1 hnodup).1
  · rw [hs]
    have hkinds : kindsOf ({ body := .enumRet f false, chosen := false } :: rest) =
        kindsOf (e :: rest) := by
      rw [kindsOf, kindsOf, List.map_cons, List.map_cons, hk]
      rfl
    rw [hkinds]
    refine ⟨List.Sublist.refl _, fun j _ => Iff.rfl, fun r hr => ?_, fun _ h => absurd hk h,
      fun r hr hw => ?_⟩
    · rcases List.mem_cons.1 hr with rfl | hr
      · rfl
      · exact hrest r hr
    · rcases List.mem_cons.1 hr with rfl | hr
      · cases hw
      · exact List.mem_cons_of_mem _ hr

theorem mem_kindsOf_filter {l : List OriginEntry} {k : OriginKind} (hk : k ≠ .alert) :
    k ∈ kindsOf (l.filter fun e => !e.waitingAlert) ↔ k ∈ kindsOf l := by
  simp only [kindsOf, List.mem_map, List.mem_filter]
  constructor
  · rintro ⟨e, ⟨he, -⟩, hek⟩
    exact ⟨e, he, hek⟩
  · rintro ⟨e, he, hek⟩
    refine ⟨e, ⟨he, ?_⟩, hek⟩
    simp [OriginEntry.waitingAlert, hek, hk]

/-! ## The order of the list is kept -/

theorem Desk.Ordered.concat {x : Desk} {b : OriginBody} (h : x.Ordered) (hb : b.kind ∉ x.kinds)
    (a : Agent) (p : Bool) : (x.concat a b p).Ordered where
  kinds := by
    show (kindsOf (x.list ++ [_])).Nodup
    rw [kindsOf, kinds_concat]
    exact nodup_concat h.kinds hb
  headed := h.headed.concat
  other := h.other

theorem Desk.Ordered.settled {x : Desk} {k : OriginKind} (hx : x.Ordered) (h : x.chosen = some k) :
    x.settled.Ordered := by
  have hheaded := hx.headed
  rw [h] at hheaded
  obtain ⟨hsublist, -, hunmarked, -⟩ := kindsOf_settled hheaded
  exact ⟨hx.kinds.sublist hsublist, headed_none_of_unmarked hunmarked, hx.other⟩

theorem DeskChoice.keeps_order {x y : Desk} (h : DeskChoice x y) (hx : x.Ordered) : y.Ordered := by
  cases h with
  | chose e rest hl hc =>
    have hheaded := hx.headed
    have hkinds := hx.kinds
    rw [Desk.kinds, hl] at hkinds
    rw [hl] at hheaded
    exact ⟨hkinds, ⟨hheaded.1, by simp⟩, hx.other⟩
  | withdrew e rest hl hc he =>
    have hheaded := hx.headed
    have hkinds := hx.kinds
    rw [Desk.kinds, hl] at hkinds
    rw [hl] at hheaded
    refine ⟨hkinds.of_cons, ?_, hx.other⟩
    show Headed rest x.chosen
    rw [hc]
    exact headed_none_of_unmarked hheaded.1

theorem DeskStart.keeps_order {x y : Desk} (h : DeskStart x y) (hx : x.Ordered) : y.Ordered := by
  cases h with
  | idle => exact hx
  | replied f a hreply hq hb hr => exact hx.concat (b := .reply f) hreply a x.pending
  | began b hreply hq hr => exact ⟨hx.kinds, hx.headed, hx.other⟩

theorem DeskMove.keeps_order {x y : Desk} (h : DeskMove x y) (hx : x.Ordered) (hs : x.Staffed) :
    y.Ordered := by
  cases h with
  | same => exact hx
  | choice h => exact h.keeps_order hx
  | agent a hq hb hr => exact ⟨hx.kinds, hx.headed, hx.other⟩
  | offered q hlength h => exact h.keeps_order ⟨hx.kinds, hx.headed, hx.other⟩
  | answered f a hrunning hq hb =>
    exact hx.concat (b := .reply f) (hs.running hrunning).2 a x.pending
  | enumReturned f h => exact hx.concat (b := .enumRet f false) h x.agent x.pending
  | enumRenewed f =>
    refine ⟨?_, hx.headed.map (renewEnumRet_kind f) (renewEnumRet_chosen f), hx.other⟩
    show (kindsOf _).Nodup
    rw [kindsOf, kinds_map (renewEnumRet_kind f)]
    exact hx.kinds
  | alerted h => exact hx.concat (b := .alert) h x.agent true
  | realerted h => exact ⟨hx.kinds, hx.headed, hx.other⟩
  | withdrew =>
    refine ⟨hx.kinds.sublist (List.filter_sublist.map _), hx.headed.filter fun e he => ?_, hx.other⟩
    simp [OriginEntry.waitingAlert, he]
  | returned k h =>
    refine ⟨?_, headed_none_of_unmarked fun e he => ?_, hx.other⟩
    · show (kindsOf _).Nodup
      rw [kindsOf, kinds_map unchoose_kind]
      exact hx.kinds
    · obtain ⟨r, -, rfl⟩ := List.mem_map.1 he
      exact unchoose_chosen r
  | settled k h hk =>
    exact hx.settled h

/-! ## The agent's turn is kept -/

/-- What the agent looks at in the list is whether it holds a REPLY. -/
theorem Desk.Staffed.ofReply {x y : Desk} (h : x.Staffed) (hagent : y.agent = x.agent)
    (hreply : .reply ∈ y.kinds ↔ .reply ∈ x.kinds) : y.Staffed := by
  refine ⟨by rw [hagent]; exact h.length, fun hb => ?_, fun hd => ?_⟩
  · rw [hagent] at hb ⊢
    rw [hreply]
    exact h.running hb
  · rw [hagent] at hd ⊢
    rw [hreply]
    exact h.due hd

theorem Desk.Answering.ofReply {x y : Desk} (h : x.Answering) (hagent : y.agent = x.agent)
    (hreply : .reply ∈ y.kinds ↔ .reply ∈ x.kinds) : y.Answering := by
  rw [Desk.Answering, hagent, hreply]
  exact h

theorem DeskChoice.agent {x y : Desk} (h : DeskChoice x y) : y.agent = x.agent := by cases h <;> rfl

theorem DeskChoice.reply {x y : Desk} (h : DeskChoice x y) : .reply ∈ y.kinds ↔ .reply ∈ x.kinds := by
  cases h with
  | chose e rest hl hc => rw [Desk.kinds, Desk.kinds, hl]; rfl
  | withdrew e rest hl hc he =>
    rw [Desk.kinds, Desk.kinds, hl]
    simp [he, OriginBody.kind]

theorem tail_length_le {α : Type} {l : List α} {n : Nat} (h : l.length ≤ n) : l.tail.length ≤ n := by
  rw [List.length_tail]
  omega

/-- A REPLY that joins the list behind the batch. -/
theorem Desk.staffed_replied {x : Desk} {b : OriginBody} {a : Agent} (hb : b.kind = .reply)
    (hlength : a.queue.length ≤ 2) (hbatch : a.batch = none) (p : Bool) :
    (x.concat a b p).Staffed ∧ (x.concat a b p).Answering := by
  have hmem : .reply ∈ (x.concat a b p).kinds := by simp [Desk.concat, Desk.kinds, hb]
  exact ⟨⟨hlength, fun h => absurd hbatch h, fun _ => ⟨hbatch, hmem⟩⟩, fun _ h => absurd hmem h⟩

theorem DeskStart.keeps_turn {x y : Desk} (h : DeskStart x y) (hx : x.Staffed) :
    y.Staffed ∧ y.Answering := by
  cases h with
  | idle h =>
    refine ⟨hx, fun hb hr => ?_⟩
    by_contra hq
    refine h ⟨hb, hr, ?_, hq⟩
    by_contra hd
    exact hr (hx.due (by simpa using hd)).2
  | replied f a hreply hq hb hr =>
    exact Desk.staffed_replied (b := .reply f) rfl (by rw [hq]; exact tail_length_le hx.length) hb _
  | began b hreply hq hr =>
    refine ⟨⟨hx.length, fun _ => ⟨hq, hreply⟩, fun h => ?_⟩, fun h => ?_⟩
    · rw [show x.agent.resetDue = true from h] at hr
      cases hr
    · cases h

theorem DeskMove.keeps_staff {x y : Desk} (h : DeskMove x y) (ho : x.Ordered) (hx : x.Staffed) :
    y.Staffed ∧ (x.Answering → y.Answering) := by
  have ofReply : y.agent = x.agent → (.reply ∈ y.kinds ↔ .reply ∈ x.kinds) →
      y.Staffed ∧ (x.Answering → y.Answering) :=
    fun hagent hreply => ⟨hx.ofReply hagent hreply, fun h => h.ofReply hagent hreply⟩
  cases h with
  | same => exact ⟨hx, id⟩
  | choice h => exact ofReply h.agent h.reply
  | agent a hq hb hr =>
    refine ⟨⟨by rw [hq]; exact hx.length, fun h => ?_, fun h => ?_⟩, fun hw h => ?_⟩
    · show a.queue ≠ [] ∧ _
      rw [hq]
      exact hx.running fun h' => h (hb.2 h')
    · show a.batch = none ∧ _
      rw [hb]
      exact hx.due (hr h)
    · show _ → a.queue = []
      rw [hq]
      exact hw (hb.1 h)
  | offered q hlength h =>
    have hqueued : ({ x with agent := { x.agent with queue := x.agent.queue ++ [q] } } : Desk).Staffed :=
      ⟨by simp only [List.length_append, List.length_singleton]; omega,
        fun h => ⟨by simp, (hx.running h).2⟩, hx.due⟩
    obtain ⟨hstaffed, hanswering⟩ := h.keeps_turn hqueued
    exact ⟨hstaffed, fun _ => hanswering⟩
  | answered f a hrunning hq hb =>
    obtain ⟨hstaffed, hanswering⟩ := Desk.staffed_replied (x := x) (b := .reply f) rfl
      (by rw [hq]; exact tail_length_le hx.length) hb x.pending
    exact ⟨hstaffed, fun _ => hanswering⟩
  | enumReturned f h =>
    refine ofReply rfl ?_
    simp [Desk.concat, Desk.kinds, OriginBody.kind]
  | enumRenewed f =>
    refine ofReply rfl ?_
    rw [Desk.kinds, kinds_map (renewEnumRet_kind f)]
    rfl
  | alerted h =>
    refine ofReply rfl ?_
    simp [Desk.concat, Desk.kinds, OriginBody.kind]
  | realerted h => exact ofReply rfl Iff.rfl
  | withdrew => exact ofReply rfl (mem_kindsOf_filter (by simp))
  | returned k h =>
    refine ofReply rfl ?_
    rw [Desk.kinds, kinds_map unchoose_kind]
    rfl
  | settled k h hk =>
    have hheaded := ho.headed
    rw [h] at hheaded
    refine ofReply rfl ((kindsOf_settled hheaded).2.1 .reply ?_)
    rcases hk with rfl | ⟨rfl, -⟩ <;> simp

/-! ## The alert is followed -/

theorem DeskChoice.keeps_alert {x y : Desk} (h : DeskChoice x y) (ho : x.Ordered) (hx : x.Alerted) :
    y.Alerted := by
  have hkinds := ho.kinds
  cases h with
  | chose e rest hl hc =>
    rw [Desk.kinds, hl] at hkinds
    by_cases hk : e.body.kind = .alert
    · refine ⟨fun r hr hw => ?_, fun hp => by simp [hk] at hp⟩
      rcases List.mem_cons.1 hr with rfl | hr
      · simp [OriginEntry.waitingAlert] at hw
      · have halert := (r.waitingAlert_iff.1 hw).1
        exact absurd (List.mem_map.2 ⟨r, hr, halert.trans hk.symm⟩) (List.nodup_cons.1 hkinds).1
    · refine ⟨fun r hr hw => ?_, fun hp => ?_⟩
      · show (if e.body.kind = .alert then false else x.pending) = true
        rw [if_neg hk]
        rcases List.mem_cons.1 hr with rfl | hr
        · simp [OriginEntry.waitingAlert] at hw
        · exact hx.waiting r (by rw [hl]; exact List.mem_cons_of_mem _ hr) hw
      · rw [if_neg hk] at hp
        have hpresent := hx.present hp
        rw [Desk.kinds, hl] at hpresent
        exact hpresent
  | withdrew e rest hl hc he =>
    rw [Desk.kinds, hl] at hkinds
    refine ⟨fun r hr hw => ?_, fun hp => by cases hp⟩
    have halert := (r.waitingAlert_iff.1 hw).1
    have hk : e.body.kind = .alert := by rw [he]; rfl
    exact absurd (List.mem_map.2 ⟨r, hr, halert.trans hk.symm⟩) (List.nodup_cons.1 hkinds).1

/-- An entry that is no alert joins the list. -/
theorem Desk.Alerted.concat {x : Desk} {b : OriginBody} (h : x.Alerted) (hb : b.kind ≠ .alert)
    (a : Agent) : (x.concat a b x.pending).Alerted where
  waiting e he hw := by
    rcases List.mem_append.1 he with he | he
    · exact h.waiting e he hw
    · rw [List.mem_singleton.1 he] at hw
      simp [OriginEntry.waitingAlert, hb] at hw
  present hp := by
    show _ ∈ kindsOf (x.list ++ [_])
    rw [kindsOf, kinds_concat]
    exact List.mem_append_left _ (h.present hp)

/-- An alert joins the list, pending. -/
theorem Desk.alerted_concat (x : Desk) (a : Agent) : (x.concat a .alert true).Alerted :=
  ⟨fun _ _ _ => rfl, fun _ => by simp [Desk.concat, Desk.kinds, OriginBody.kind]⟩

theorem DeskStart.keeps_alert {x y : Desk} (h : DeskStart x y) (hx : x.Alerted) : y.Alerted := by
  cases h with
  | idle => exact hx
  | replied f a hreply hq hb hr => exact hx.concat (b := .reply f) (by simp [OriginBody.kind]) a
  | began b hreply hq hr => exact ⟨hx.waiting, hx.present⟩

theorem waitingAlert_renewed (f : Frame) (e : OriginEntry) :
    (renewEnumRet f e).waitingAlert = e.waitingAlert := by
  rw [OriginEntry.waitingAlert, OriginEntry.waitingAlert, renewEnumRet_kind, renewEnumRet_chosen]

theorem DeskMove.keeps_alert {x y : Desk} (h : DeskMove x y) (ho : x.Ordered) (hx : x.Alerted) :
    y.Alerted := by
  cases h with
  | same => exact hx
  | choice h => exact h.keeps_alert ho hx
  | agent a hq hb hr => exact ⟨hx.waiting, hx.present⟩
  | offered q hlength h => exact h.keeps_alert ⟨hx.waiting, hx.present⟩
  | answered f a hrunning hq hb => exact hx.concat (b := .reply f) (by simp [OriginBody.kind]) a
  | enumReturned f h => exact hx.concat (b := .enumRet f false) (by simp [OriginBody.kind]) x.agent
  | enumRenewed f =>
    refine ⟨fun e he hw => ?_, fun hp => ?_⟩
    · obtain ⟨r, hr, rfl⟩ := List.mem_map.1 he
      rw [waitingAlert_renewed] at hw
      exact hx.waiting r hr hw
    · show _ ∈ kindsOf _
      rw [kindsOf, kinds_map (renewEnumRet_kind f)]
      exact hx.present hp
  | alerted h => exact x.alerted_concat x.agent
  | realerted h => exact ⟨fun _ _ _ => rfl, fun _ => h⟩
  | withdrew =>
    refine ⟨fun e he hw => ?_, fun hp => by cases hp⟩
    have hkept := (List.mem_filter.1 he).2
    rw [hw] at hkept
    cases hkept
  | returned k h =>
    have hheaded := ho.headed
    rw [h] at hheaded
    obtain ⟨e, rest, hl, he, hk, hrest⟩ := hheaded.marked
    have hkinds : (kindsOf (x.list.map unchoose)) = kindsOf x.list := by
      rw [kindsOf, kinds_map unchoose_kind]
    refine ⟨fun r hr hw => ?_, fun hp => ?_⟩
    · show (x.pending || decide (k = .alert)) = true
      rw [Bool.or_eq_true, decide_eq_true_eq]
      obtain ⟨y, hy, rfl⟩ := List.mem_map.1 hr
      have halert := ((unchoose y).waitingAlert_iff.1 hw).1
      rw [unchoose_kind] at halert
      rw [hl] at hy
      rcases List.mem_cons.1 hy with rfl | hy
      · exact .inr (hk.symm.trans halert)
      · refine .inl (hx.waiting y (by rw [hl]; exact List.mem_cons_of_mem _ hy) ?_)
        simp [OriginEntry.waitingAlert, halert, hrest y hy]
    · show _ ∈ kindsOf (x.list.map unchoose)
      rw [hkinds]
      have hp : (x.pending || decide (k = .alert)) = true := hp
      rw [Bool.or_eq_true, decide_eq_true_eq] at hp
      rcases hp with hp | hp
      · exact hx.present hp
      · rw [hl]
        exact List.mem_map.2 ⟨e, List.mem_cons_self, hk.trans hp⟩
  | settled k h hk =>
    have hheaded := ho.headed
    rw [h] at hheaded
    obtain ⟨-, hkinds, -, -, hwaiting⟩ := kindsOf_settled hheaded
    refine ⟨fun r hr hw => hx.waiting r (hwaiting r hr hw) hw, fun hp => ?_⟩
    rcases hk with rfl | ⟨-, hpending⟩
    · exact (hkinds .alert (by simp)).2 (hx.present hp)
    · rw [show x.pending = true from hp] at hpending
      cases hpending

end Sys2Proof.Machine

/-! SUPPORT. The parts of a step at the desk (R66 to R72, R123, R124, R145, R168). -/

namespace Sys2Proof.Machine

/-! ## Runs of moves -/

abbrev DeskChoices : Desk → Desk → Prop := Relation.ReflTransGen DeskChoice

abbrev DeskMoves : Desk → Desk → Prop := Relation.ReflTransGen DeskMove

theorem DeskChoices.moves {x y : Desk} (h : DeskChoices x y) : DeskMoves x y :=
  Relation.ReflTransGen.mono (fun _ _ => DeskMove.choice) _ _ h

theorem DeskMove.moves {x y : Desk} (h : DeskMove x y) : DeskMoves x y := .single h

/-- The desk is in order, but that a request may wait with nothing before it. -/
structure Desk.Kept (x : Desk) : Prop where
  ordered : x.Ordered
  staffed : x.Staffed
  alerted : x.Alerted

theorem DeskMoves.keeps {x y : Desk} (h : DeskMoves x y) (hx : x.Kept) :
    y.Kept ∧ (x.Answering → y.Answering) := by
  induction h with
  | refl => exact ⟨hx, id⟩
  | tail _ hm ih =>
    obtain ⟨hkept, hanswering⟩ := ih
    obtain ⟨hstaffed, hanswering'⟩ := hm.keeps_staff hkept.ordered hkept.staffed
    exact ⟨⟨hm.keeps_order hkept.ordered hkept.staffed, hstaffed,
      hm.keeps_alert hkept.ordered hkept.alerted⟩, fun hx => hanswering' (hanswering hx)⟩

/-! ## The arbiters' choice -/

theorem Device.origin_none {a : Egress} (h : a.chosen = none) : a.chosenOrigin = none := by
  rw [Egress.chosenOrigin, h]
  rfl

theorem chooseForwardOrLaunch_desk {p : PortId} {d : Device} (hc : (d.arbiter p).chosen = none) :
    (chooseForwardOrLaunch p d).desk = d.desk := by
  have horigin := Device.origin_none hc
  have launch : ∀ k, (chooseLaunch p k d).desk = d.desk := fun k => by
    cases p with
    | a => exact Desk.ext rfl rfl horigin.symm rfl rfl
    | b => exact Desk.ext rfl rfl rfl horigin.symm rfl
  have forward : ∀ ref rest share, (chooseForward p ref rest share d).desk = d.desk :=
    fun ref rest share => by
      cases p with
      | a => exact Desk.ext rfl rfl horigin.symm rfl rfl
      | b => exact Desk.ext rfl rfl rfl horigin.symm rfl
  unfold chooseForwardOrLaunch
  dsimp only
  split
  · rfl
  · exact forward _ _ _
  · exact launch _
  · split
    · exact forward _ _ _
    · exact launch _

theorem chooseOrigin_desk {l : List OriginEntry} {d : Device} (hl : d.origin = l)
    (hc : (d.arbiter .a).chosen = none) : DeskChoices d.desk (chooseOrigin l d).desk := by
  have horigin : d.desk.chosen = none := Device.origin_none hc
  induction l generalizing d with
  | nil =>
    have hsame : { d with origin := [] } = d := by rw [← hl]
    have hdesk := chooseForwardOrLaunch_desk (d := { d with origin := [] }) hc
    rw [hsame] at hdesk
    rw [chooseOrigin, hsame, hdesk]
  | cons e rest ih =>
    rcases e.body.gives_or_empty d with ⟨hbody, hrecord⟩ | ⟨kind, f, hgives⟩
    · rw [chooseOrigin_of_empty_alert hbody hrecord,
        ← chooseOrigin_origin rest rest (d.setAlertPending false)]
      exact .head (.withdrew e rest hl horigin hbody)
        (ih (d := { d.setAlertPending false with origin := rest }) rfl hc horigin)
    · rw [chooseOrigin_of_gives hgives]
      have hkind : kind = e.body.kind := by
        generalize e.body = b at hgives
        cases hgives <;> rfl
      subst hkind
      exact .single (.chose e rest hl horigin)

theorem choose_desk (p : PortId) (d : Device) : DeskChoices d.desk (choose p d).desk := by
  by_cases h : (d.port p).online = true ∧ (d.arbiter p).chosen = none
  · unfold choose
    rw [if_pos h]
    cases p with
    | a => exact chooseOrigin_desk rfl h.2
    | b =>
      have hdesk := chooseForwardOrLaunch_desk (p := .b) h.2
      rw [hdesk]
  · unfold choose
    rw [if_neg h]

theorem arbitrate_desk (d : Device) : DeskChoices d.desk (arbitrate d).desk :=
  (choose_desk .a d).trans (choose_desk .b _)

/-! ## Requests -/

theorem startRequest_desk (d : Device) : DeskStart d.desk (startRequest d).desk := by
  unfold startRequest
  split
  · rename_i h
    obtain ⟨hbatch, hreply, hdue⟩ := h
    have hreply : .reply ∉ d.desk.kinds := (d.hasOrigin_eq_false .reply).1 (by simpa using hreply)
    have hdue : d.agent.resetDue = false := by simpa using hdue
    split
    · rename_i hq
      exact .idle fun h => h.2.2.2 hq
    · rename_i q rest hq
      have run : ∀ e : Device, e.desk = d.desk → DeskStart d.desk (runRequest q e).desk := fun e he => by
        have hagent : e.agent = d.agent := congrArg Desk.agent he
        rw [← he]
        rw [← he] at hreply
        rw [← hagent] at hbatch hdue hq
        unfold runRequest
        split
        · exact .replied _ { e.agent with queue := e.agent.queue.tail } hreply rfl hbatch hdue
        · split
          · exact .replied _ _ hreply rfl hbatch hdue
          · exact .began _ hreply (by rw [show e.desk.agent = e.agent from rfl, hq]; simp) hdue
      split
      · exact run _ rfl
      · exact run _ rfl
  · rename_i h
    refine .idle fun hidle => h ?_
    obtain ⟨hbatch, hreply, hdue, -⟩ := hidle
    have hreply := (d.hasOrigin_eq_false .reply).2 hreply
    have hdue : d.agent.resetDue = false := hdue
    exact ⟨hbatch, by rw [hreply]; rfl, by rw [hdue]; rfl⟩

/-- R160, R162, R167: a report may raise an alert. -/
theorem report_desk (r : FaultReport) (d : Device) : DeskMove d.desk (d.report r).desk := by
  unfold Device.report
  split
  · split
    · dsimp only
      split
      · unfold Device.raiseAlert
        dsimp only
        split
        · rename_i halert
          exact .realerted ((Device.hasOrigin_eq_true _ .alert).1 halert)
        · rename_i halert
          exact .alerted ((Device.hasOrigin_eq_false _ .alert).1 (Bool.eq_false_iff.2 halert))
      · exact .same
    · exact .same
  · exact .same

theorem offerCopy_desk (h : Header) (q : RequestCopy) (d : Device) :
    DeskMove d.desk (offerCopy h q d).desk := by
  rcases offerCopy_cases h q d with ⟨hlength, e⟩ | ⟨-, e⟩
  · rw [e]
    have hstart := startRequest_desk (d.onAgent fun a => { a with queue := a.queue ++ [q] })
    exact .offered q hlength hstart
  · rw [e]
    exact report_desk _ (d.count .overrun)

theorem placeEnumRet_desk (f : Frame) (d : Device) : DeskMove d.desk (d.placeEnumRet f).desk := by
  unfold Device.placeEnumRet
  split
  · exact .enumRenewed f
  · rename_i h
    exact .enumReturned f ((d.hasOrigin_eq_false .enumRet).1 (by simpa using h))

/-! ## The frames that the arbiters hold -/

theorem Egress.chosenOrigin_eq (a : Egress) :
    a.chosenOrigin = (a.chosen.map Chosen.frame).bind fun f =>
      match f with
      | .origin k _ => some k
      | .forward _ => none
      | .launch _ => none := by
  rw [Egress.chosenOrigin, Option.bind_map]
  rfl

theorem Egress.chosenOrigin_of_frame {a b : Egress}
    (h : b.chosen.map Chosen.frame = a.chosen.map Chosen.frame) :
    b.chosenOrigin = a.chosenOrigin := by
  rw [Egress.chosenOrigin_eq, h, ← Egress.chosenOrigin_eq]

/-- A part of an event that leaves the list, the agent, the pending flag and the origin frames chosen. -/
theorem Device.desk_eq {d e : Device} (hagent : e.agent = d.agent) (horigin : e.origin = d.origin)
    (hstats : e.stats.alertPending = d.stats.alertPending)
    (harbiter : ∀ p, (e.arbiter p).chosenOrigin = (d.arbiter p).chosenOrigin) : e.desk = d.desk :=
  Desk.ext hagent horigin (harbiter .a) (harbiter .b) hstats

theorem eofSent_desk {p : PortId} {d : Device} (h : (d.arbiter p).chosenOrigin = none) :
    (eofSent p d).desk = d.desk := by
  refine Device.desk_eq rfl rfl rfl fun q => ?_
  rw [eofSent_arbiter]
  split
  · rename_i hq
    rw [hq, h]
    rfl
  · rfl

/-- An origin frame is chosen at port A alone. -/
theorem Desk.Ordered.chosenOrigin_port {d : Device} (h : d.desk.Ordered) {p : PortId} {k : OriginKind}
    (hc : (d.arbiter p).chosenOrigin = some k) : p = .a ∧ d.desk.chosen = some k := by
  cases p with
  | a => exact ⟨rfl, hc⟩
  | b =>
    have hother : (d.arbiter .b).chosenOrigin = none := h.other
    rw [hother] at hc
    cases hc

theorem Device.EgressEmptied.desk {d e : Device} {p : PortId} (h : d.EgressEmptied e p)
    (ho : d.desk.Ordered) : DeskMove d.desk e.desk := by
  obtain ⟨harbiter, hother, -, -, -, hsame, hreturned, hstats, -, hrest⟩ := h
  have hagent : e.agent = d.agent := by rw [hrest]
  have hnone : (e.arbiter p).chosenOrigin = none := by rw [harbiter]; rfl
  have hpending : e.stats.alertPending =
      (d.stats.alertPending || decide ((d.arbiter p).chosenOrigin = some .alert)) := by rw [hstats]
  cases hc : (d.arbiter p).chosenOrigin with
  | none =>
    have hdesk : e.desk = d.desk := by
      refine Device.desk_eq hagent (hsame hc) ?_ fun q => ?_
      · rw [hpending, hc]; simp
      · rcases PortId.eq_or_opposite p q with rfl | rfl
        · rw [hnone, hc]
        · rw [hother]
    rw [hdesk]
    exact .same
  | some k =>
    obtain ⟨rfl, hchosen⟩ := ho.chosenOrigin_port hc
    have hlist : e.origin = d.origin.map unchoose := by
      rw [hreturned (by rw [hc]; simp)]
      refine List.map_congr_left fun x _ => ?_
      obtain ⟨body, chosen⟩ := x
      cases body <;> cases chosen <;> rfl
    have hdesk : e.desk = { d.desk with
        list := d.desk.list.map unchoose, chosen := none
        pending := d.desk.pending || decide (k = .alert) } := by
      refine Desk.ext hagent hlist hnone (by show (e.arbiter PortId.a.opposite).chosenOrigin = _; rw [hother]; rfl) ?_
      show e.stats.alertPending = _
      rw [hpending, hc]
      simp [Device.desk]
    rw [hdesk]
    exact .returned k hchosen

theorem Move.desk {d e : Device} (h : Move d e) (ho : d.desk.Ordered) : DeskMoves d.desk e.desk := by
  have same : e.desk = d.desk → DeskMoves d.desk e.desk := fun h => by rw [h]
  cases h with
  | reported r => exact (report_desk r d).moves
  | enabled => rw [enableBOn_frame]; exact .refl
  | disabled h => rw [disableB_frame h]; exact .refl
  | wentDown p v link ready tx m hon hlink htx hegress hport =>
    exact (hegress.desk (d := { d with enableB := v }) ho).moves
  | chose p => exact (choose_desk p d).moves
  | referred p key h label next hfree hon =>
    refine same (Device.desk_eq rfl rfl rfl fun q => ?_)
    rw [makeReference, Device.arbiter_onArbiter]
    split
    · rename_i hq; rw [hq]; rfl
    · rfl
  | sofSent p c blocks bytes hc hon =>
    refine same (Device.desk_eq rfl rfl rfl fun q => Egress.chosenOrigin_of_frame ?_)
    rw [Device.arbiter_onArbiter]
    split
    · rename_i hq
      rw [hq, hc]
      rfl
    · rfl
  | forwardEnded p ref sending hc =>
    have hnone : (d.arbiter p).chosenOrigin = none := by rw [Egress.chosenOrigin, hc]; rfl
    exact same (eofSent_desk hnone)
  | launchEnded p k sending hc =>
    have hnone : (d.arbiter p).chosenOrigin = none := by rw [Egress.chosenOrigin, hc]; rfl
    refine same (Eq.trans ?_ (eofSent_desk hnone))
    rw [(launchEnded_slots p k d).rest]
    rfl
  | originEnded p kind f sending hc hkind =>
    have hchosen : (d.arbiter p).chosenOrigin = some kind := by rw [Egress.chosenOrigin, hc]; rfl
    obtain ⟨rfl, hchosen⟩ := ho.chosenOrigin_port hchosen
    exact (DeskMove.settled kind hchosen hkind).moves
  | enumReturned f => exact (placeEnumRet_desk f d).moves
  | copied w rest hw => rw [completeCopy_frame]; exact .refl
  | noticeTaken => rw [takeNotice_frame]; exact .refl
  | locallyReset m h =>
    obtain ⟨-, -, -, -, hports, -, -, -, hagent, horigin, hstats, -⟩ := h
    refine same (Device.desk_eq hagent horigin (by rw [hstats]) fun q => ?_)
    rw [(hports q).2, Egress.chosenOrigin, Egress.chosenOrigin]
    cases hc : (d.arbiter q).chosen with
    | none => rfl
    | some c =>
      obtain ⟨frame, sending⟩ := c
      cases frame <;> rfl
  | copyOffered h q => exact (offerCopy_desk h q d).moves
  | batch b hb =>
    exact (DeskMove.agent { d.agent with batch := some b } rfl ⟨(by intro h; cases h),
      fun h => absurd h hb⟩ id).moves
  | batchEnded b q rest hb hq hdue =>
    have hrunning : d.desk.agent.batch ≠ none := by
      rw [show d.desk.agent.batch = some b from hb]
      simp
    exact (DeskMove.answered _ (batchAnswered b q d).agent hrunning rfl rfl).moves
  | node n hlow hhigh => exact (DeskMove.agent { d.agent with node := n } rfl Iff.rfl id).moves
  | storeCleared =>
    exact (DeskMove.agent { d.agent with lastTag := 0, replay := none } rfl Iff.rfl id).moves
  | handedOver k hfree hlen => rw [(slotTaken_slots k d).rest]; exact .refl
  | _ => exact .refl

/-! ## The events at the desk -/

/-- What every event keeps: the desk in order, with no request waiting with nothing before it. -/
def Desk.InOrder (x : Desk) : Prop := x.Kept ∧ x.Answering

theorem DeskMoves.keeps_inOrder {x y : Desk} (h : DeskMoves x y) (hx : x.InOrder) : y.InOrder := by
  obtain ⟨hkept, hanswering⟩ := DeskMoves.keeps h hx.1
  exact ⟨hkept, hanswering hx.2⟩

theorem Moves.keeps_desk {d e : Device} (h : Moves d e) (hd : d.desk.InOrder) : e.desk.InOrder :=
  h.keeps (P := fun d => d.desk.InOrder)
    (fun hm hx => DeskMoves.keeps_inOrder (hm.desk hx.1.ordered) hx) hd

/-- The start of the next request settles what waits. -/
theorem startRequest_inOrder {d : Device} (h : d.desk.Kept) : (startRequest d).desk.InOrder := by
  have hstart := startRequest_desk d
  obtain ⟨hstaffed, hanswering⟩ := hstart.keeps_turn h.staffed
  exact ⟨⟨hstart.keeps_order h.ordered, hstaffed, hstart.keeps_alert h.alerted⟩, hanswering⟩

theorem arbitrate_kept {d : Device} (h : d.desk.Kept) : (arbitrate d).desk.Kept :=
  (DeskMoves.keeps (arbitrate_desk d).moves h).1

theorem arbitrate_inOrder {d : Device} (h : d.desk.InOrder) : (arbitrate d).desk.InOrder :=
  DeskMoves.keeps_inOrder (arbitrate_desk d).moves h

/-- R124: the EOF of a REPLY, before the next request is started. -/
theorem Desk.Kept.replySettled {x : Desk} (h : x.Kept) (hc : x.chosen = some .reply)
    (hdue : x.agent.resetDue = false) : x.settled.Kept := by
  obtain ⟨hordered, hstaffed, halerted⟩ := h
  have hheaded := hordered.headed
  rw [hc] at hheaded
  obtain ⟨e, rest, hl, -, hk, -⟩ := hheaded.marked
  obtain ⟨-, hkinds, -, -, hwaiting⟩ := kindsOf_settled hheaded
  have hreply : .reply ∈ x.kinds := by
    rw [Desk.kinds, hl]
    exact List.mem_map.2 ⟨e, List.mem_cons_self, hk⟩
  refine ⟨hordered.settled hc, ⟨hstaffed.length, fun hb => ?_, fun hd => ?_⟩,
    ⟨fun r hr hw => halerted.waiting r (hwaiting r hr hw) hw, fun hp => ?_⟩⟩
  · exact absurd hreply (hstaffed.running hb).2
  · rw [show x.agent.resetDue = true from hd] at hdue
    cases hdue
  · exact (hkinds .alert (by simp)).2 (halerted.present hp)

/-- The desk between the EOF of an ALERT and the entry of the next (R168). -/
structure Desk.Between (x : Desk) : Prop where
  ordered : x.Ordered
  staffed : x.Staffed
  answering : x.Answering
  owes : x.Owes

theorem Desk.InOrder.alertSettled {x : Desk} (h : x.InOrder) (hc : x.chosen = some .alert)
    (hpending : x.pending = true) : x.settled.Between := by
  obtain ⟨⟨hordered, hstaffed, -⟩, hanswering⟩ := h
  have hheaded := hordered.headed
  rw [hc] at hheaded
  obtain ⟨-, hkinds, -, hgone, -⟩ := kindsOf_settled hheaded
  have hreply := hkinds .reply (by simp)
  exact ⟨hordered.settled hc, hstaffed.ofReply rfl hreply, hanswering.ofReply rfl hreply, hpending,
    hgone hordered.kinds (by simp)⟩

theorem DeskChoice.keeps_between {x y : Desk} (h : DeskChoice x y) (hx : x.Between) : y.Between := by
  refine ⟨h.keeps_order hx.ordered, hx.staffed.ofReply h.agent h.reply,
    hx.answering.ofReply h.agent h.reply, ?_⟩
  obtain ⟨hpending, habsent⟩ := hx.owes
  cases h with
  | chose e rest hl hc =>
    rw [Desk.kinds, hl] at habsent
    have hk : e.body.kind ≠ .alert := fun hk => habsent (List.mem_map.2 ⟨e, List.mem_cons_self, hk⟩)
    exact ⟨by simpa [hk] using hpending, habsent⟩
  | withdrew e rest hl hc he =>
    rw [Desk.kinds, hl] at habsent
    exact absurd (List.mem_map.2 ⟨e, List.mem_cons_self, by rw [he]; rfl⟩) habsent

theorem DeskChoices.keeps_between {x y : Desk} (h : DeskChoices x y) (hx : x.Between) :
    y.Between := by
  induction h with
  | refl => exact hx
  | tail _ hm ih => exact hm.keeps_between ih

theorem arbitrate_between {d : Device} (h : d.desk.Between) : (arbitrate d).desk.Between :=
  DeskChoices.keeps_between (arbitrate_desk d) h

/-- R168 (5): the owed alert joins the list. -/
theorem Desk.Between.placed {d : Device} (h : d.desk.Between) :
    (d.placeOrigin .alert).desk.InOrder := by
  obtain ⟨hordered, hstaffed, hanswering, hpending, habsent⟩ := h
  have hmove := DeskMove.alerted habsent
  have hdesk : (d.placeOrigin .alert).desk = d.desk.concat d.desk.agent .alert true :=
    Desk.ext rfl rfl rfl rfl hpending
  rw [hdesk]
  obtain ⟨hstaffed', hanswering'⟩ := hmove.keeps_staff hordered hstaffed
  exact ⟨⟨hmove.keeps_order hordered hstaffed, hstaffed', Desk.alerted_concat _ _⟩,
    hanswering' hanswering⟩

/-- The EOF of an origin frame at the desk. -/
theorem originSettled_desk {d : Device} (p : PortId) {k : OriginKind} {f : Frame} {sending : Bool}
    (ho : d.desk.Ordered) (hc : (d.arbiter p).chosen = some { frame := .origin k f, sending })
    (n : Nat) :
    Device.desk { originSettled p d with choices := n } = d.desk.settled
      ∧ d.desk.chosen = some k := by
  have hchosen : (d.arbiter p).chosenOrigin = some k := by rw [Egress.chosenOrigin, hc]; rfl
  obtain ⟨rfl, hchosen⟩ := ho.chosenOrigin_port hchosen
  exact ⟨rfl, hchosen⟩

theorem emptyRecord_desk (d : Device) : DeskMove d.desk d.emptyRecord.desk := by
  unfold Device.emptyRecord Device.withdrawAlert
  split
  · exact .withdrew
  · exact .same

/-- R145: a station reset withdraws an alert, and the agent's next request may start. -/
theorem stationReset_desk (d : Device) : DeskMoves d.desk (stationReset d).desk :=
  DeskMove.withdrew.moves.tail
    (.agent { d.agent with lastTag := 0, replay := none, resetDue := false } rfl Iff.rfl
      (by intro h; cases h))

theorem Device.reset_desk : Device.reset.desk.InOrder :=
  ⟨⟨⟨List.nodup_nil, rfl, rfl⟩, ⟨Nat.zero_le 2, fun h => absurd rfl h, by intro h; cases h⟩,
    ⟨fun e he => (by cases he), by intro h; cases h⟩⟩, fun _ _ => rfl⟩

theorem Event.keeps_desk {c : Option Instr} {d e : Device} (h : Event c d e) (hd : d.desk.InOrder) :
    e.desk.InOrder := by
  cases h with
  | moves h => exact Moves.keeps_desk h hd
  | @arrived m n _ p f frame blocks before hrx hcharge dispatched after =>
    have hm : m.desk.InOrder := Moves.keeps_desk before hd
    have hn : n.desk.InOrder := Moves.keeps_desk dispatched hm
    exact Moves.keeps_desk after hn
  | replyEnded p f sending choices hc hdue he =>
    obtain ⟨hdesk, hchosen⟩ := originSettled_desk p hd.1.ordered hc choices
    have hsettled := hd.1.replySettled hchosen hdue
    rw [← hdesk] at hsettled
    rcases he with rfl | rfl
    · exact arbitrate_inOrder (startRequest_inOrder (arbitrate_kept hsettled))
    · exact arbitrate_inOrder (arbitrate_inOrder (startRequest_inOrder hsettled))
  | alertEnded p f sending choices hc hpending he =>
    obtain ⟨hdesk, hchosen⟩ := originSettled_desk p hd.1.ordered hc choices
    have hsettled := hd.alertSettled hchosen hpending
    rw [← hdesk] at hsettled
    rcases he with rfl | rfl
    · exact arbitrate_inOrder (arbitrate_between hsettled).placed
    · exact arbitrate_inOrder (arbitrate_inOrder hsettled.placed)
  | fullReset high h => exact Device.reset_desk
  | stationReset h hdue => exact DeskMoves.keeps_inOrder (stationReset_desk d) hd
  | counterCleared id i h after =>
    have hcleared : Device.desk { d with stats := { d.stats with
      counters := d.stats.counters.set i 0 } } = d.desk := rfl
    exact Moves.keeps_desk after (hcleared ▸ hd)
  | recordEmptied h after =>
    exact Moves.keeps_desk after (DeskMoves.keeps_inOrder (emptyRecord_desk d).moves hd)

/-- Settles O54, by the events: each is a run of moves at the desk, but for the two EOFs after which the
sender acts, where it is followed in either order. -/
theorem stepKeepsOriginList : Obligations.StepKeepsOriginList := by
  intro s t hs h
  obtain ⟨hordered, hstaffed, hanswering, halerted⟩ := (Device.originKept_iff _).1 hs
  obtain ⟨⟨hordered, hstaffed, halerted⟩, hanswering⟩ :=
    (step_event h).keeps_desk ⟨⟨hordered, hstaffed, halerted⟩, hanswering⟩
  exact (Device.originKept_iff _).2 ⟨hordered, hstaffed, hanswering, halerted⟩

end Sys2Proof.Machine

/-! SUPPORT. The command queue, the resets and the pins (R1, R17 to R22, R184): what each of these commands
does, and the invariants right after a full reset. -/

namespace Sys2Proof.Machine

/-! ## The command queue -/

/-- Settles O1, by the definition of a step. -/
theorem stepRunsTheFrontCommand : Obligations.StepRunsTheFrontCommand := by
  intro s c rest h
  rw [step, h]

/-- Settles O2: every command acts on the part alone. -/
theorem everyCommandAnswersNext : Obligations.EveryCommandAnswersNext := by
  refine ⟨fun i s => ?_, fun s h => by rw [step, h]⟩
  cases i
  all_goals exact ⟨_, rfl⟩

/-! ## A part held by RESET -/

theorem onDevice_held {s : State} (f : Device → Device) (h : s.dev.pins.resetLow = true) :
    onDevice (unlessHeld f) s = s.nextWith s.dev := by
  rw [onDevice, unlessHeld_held h, State.nextWith]

theorem onDevice_live {s : State} (f : Device → Device) (h : s.dev.Live) :
    onDevice (unlessHeld f) s = s.nextWith (f s.dev) := by
  rw [onDevice, unlessHeld_free h, State.nextWith]

/-- RESET low holds the LAP as well (R185). -/
theorem Device.lapHeld_of_resetLow {d : Device} (h : d.pins.resetLow = true) : d.lapHeld = true := by
  rw [Device.lapHeld, h, Bool.true_or]

theorem lapWord_held {c : LapCommand} {a : Half} {f : Device → Device} {d : Device}
    (h : d.pins.resetLow = true) : lapWord c a f d = d := by
  rw [lapWord, if_pos (Device.lapHeld_of_resetLow h)]

theorem onDevice_lapWrite_held {s : State} (a : Half) (f : Device → Device)
    (h : s.dev.pins.resetLow = true) : onDevice (lapWrite a f) s = s.nextWith s.dev := by
  rw [onDevice, lapWrite, lapWord_held h, State.nextWith]

theorem onDevice_lapReadAt_held {s : State} (a : Half) (h : s.dev.pins.resetLow = true) :
    onDevice (lapReadAt a) s = s.nextWith s.dev := by
  rw [onDevice, lapReadAt, lapWord_held h, State.nextWith]

theorem badCommand_held {d : Device} (code : Byte) (h : d.pins.resetLow = true) :
    badCommand code d = d := by
  rw [badCommand, Device.lapHeld_of_resetLow h, Bool.true_or, Bool.true_or, if_pos rfl]

theorem writeLocalReset_held {d : Device} (h : d.pins.resetLow = true) : writeLocalReset d = d := by
  rw [writeLocalReset, if_pos (Device.lapHeld_of_resetLow h)]

/-- The command changed no more than the level of an input pin, and RESET is still low. -/
def State.PinMoved (s : State) (o : Host.Outcome State Fault Refusal) : Prop :=
  ∃ pins, o = s.nextWith ({ s.dev with pins }) ∧ pins.resetLow = true

theorem State.PinMoved.none {s : State} {o : Host.Outcome State Fault Refusal}
    (h : s.dev.pins.resetLow = true) (ho : o = s.nextWith s.dev) : s.PinMoved o :=
  ⟨s.dev.pins, ho, h⟩

theorem lrstAssert_held {s : State} (h : s.dev.pins.resetLow = true) :
    s.PinMoved (execLrstAssert s) := by
  rw [execLrstAssert, onDevice, lrstLow]
  split
  · exact .none h rfl
  · refine ⟨{ s.dev.pins with lrstLow := true }, ?_, h⟩
    rw [unlessHeld_held (by exact h), State.nextWith]

theorem lossOfSignal_held {s : State} (p : PortId) (h : s.dev.pins.resetLow = true) :
    s.PinMoved (execLossOfSignal p s) := by
  refine ⟨{ s.dev.pins with signal := s.dev.pins.signal.set p false }, ?_, h⟩
  rw [execLossOfSignal, onDevice, unlessHeld_held (by exact h)]
  rfl

theorem transactionBegin_held {s : State} (h : s.dev.pins.resetLow = true) :
    s.PinMoved (execTransactionBegin s) := by
  rw [execTransactionBegin, onDevice, beginTransaction]
  split
  · exact .none h rfl
  · refine ⟨{ s.dev.pins with lcsLow := true }, ?_, h⟩
    dsimp only
    rw [if_pos (Device.lapHeld_of_resetLow (by exact h)), State.nextWith]

theorem transactionEnd_held {s : State} (h : s.dev.pins.resetLow = true) :
    s.PinMoved (execTransactionEnd s) := by
  refine ⟨{ s.dev.pins with lcsLow := false }, ?_, h⟩
  rw [execTransactionEnd, onDevice, endTransaction]
  dsimp only
  rw [if_pos (Device.lapHeld_of_resetLow (by exact h)), State.nextWith]

theorem lapReadOnlyWrite_held {s : State} (a : Half) (v : Word) (h : s.dev.pins.resetLow = true) :
    s.PinMoved (execLapReadOnlyWrite a v s) := by
  rw [execLapReadOnlyWrite, onDevice]
  cases lapWordAt a with
  | localIdent | localStatus | noticeTake | latchWord i | bufData w | unmapped =>
    exact .none h (onDevice_lapWrite_held a Device.setAccessFault h)
  | localCause | localEnable | localReset | freeReturn | slotHandover | slotRecall | bufSelect
  | slotSelect | slotHeader k sec | slotData w =>
    exact .none h rfl

/-- Settles O5, by the commands: the events outside the LAP wait for RESET, and a held LAP takes no word. -/
theorem heldPartTakesNoEvent : Obligations.HeldPartTakesNoEvent := by
  intro s i h hreset hrelease
  show s.PinMoved (exec i s)
  cases i with
  | fullReset high => exact absurd rfl (hreset high)
  | resetRelease => exact absurd rfl hrelease
  | lrstAssert => exact lrstAssert_held h
  | lrstRelease => exact ⟨{ s.dev.pins with lrstLow := false }, rfl, h⟩
  | lossOfSignal p => exact lossOfSignal_held p h
  | signalReturn p => exact ⟨{ s.dev.pins with signal := s.dev.pins.signal.set p true }, rfl, h⟩
  | transactionBegin => exact transactionBegin_held h
  | transactionEnd => exact transactionEnd_held h
  | lapReadOnlyWrite a v => exact lapReadOnlyWrite_held a v h
  | lapBadCommand code =>
    exact .none h (congrArg s.nextWith (badCommand_held code h))
  | localReset v =>
    exact .none h (congrArg s.nextWith (writeLocalReset_held h))
  | noticeTake | bufDataRead w =>
    exact .none h (onDevice_lapReadAt_held _ h)
  | localCauseWrite v | localEnableWrite v | freeReturn v | bufSelectWrite v | slotHeaderWrite k sec v
  | slotSelectWrite v | slotDataWrite w v | slotHandover v | slotRecall v =>
    exact .none h (onDevice_lapWrite_held _ _ h)
  | rxSeek p | rxReady p | rxIdle p | rxCredit p n | rxSof p | rxDataSymbol p b | rxEof p | rxAbort p
  | rxSymbolError p | txCredit p | txSof p | txDataSymbol p | txEof p | txAbort p | copyCompletion
  | readWord a | writeWord a v | modifyWord a v m | enableBClear | enableBSet | tableWrite i f
  | tableRead i c | tableInvalidate i n | counterRead i c | seqReset c | faultRead c | setNode n
  | echo l | stationReset | batchEnd | stationResetApplied =>
    exact .none h (onDevice_held _ h)

/-! ## The resets -/

/-- Settles O4, by the definitions of the three commands. -/
theorem fullResetAndReleases : Obligations.FullResetAndReleases :=
  fun _ => ⟨fun _ => rfl, rfl, rfl⟩

theorem localReset_context (d : Device) : (localReset d).lap.context = d.lap.context := by
  obtain ⟨m, hm, -, -, hlap, -⟩ := localReset_resets d
  rw [hm, arbitrate_lap, hlap]

/-- A live LAP whose transaction comes to LOCAL_RESET ignores the rest of that transaction (R184). -/
theorem writeLocalReset_due {d : Device} (h : d.WordDue .write 0x0004) :
    writeLocalReset d = (localReset d).onLap fun l =>
      { l with ldo := 0, context := if d.lap.context = .idle then .idle else .ignored } := by
  have hword := lapWrite_due h (localReset_context d)
  obtain ⟨hheld, ⟨hidle, hlcs⟩ | hopened | ⟨next, pos, hwords, hnext⟩⟩ := h
  · rw [writeLocalReset, hheld, hidle, hlcs, hword]
    simp [Device.wordDone, LapContext.next, Device.onLap, hidle]
  · rw [writeLocalReset, hheld, hopened, hword]
    simp [ignoreRest, Device.wordDone, LapContext.next, Device.onLap, hopened]
  · rw [writeLocalReset, hheld, hwords]
    show (if continues .write next 0x0004 = true then ignoreRest (lapWrite 0x0004 localReset d) else d) = _
    rw [if_pos hnext, hword]
    simp [ignoreRest, Device.wordDone, LapContext.next, Device.onLap, hwords]

/-- Settles O6. -/
theorem localResetReachesThreeBlocks : Obligations.LocalResetReachesThreeBlocks := by
  intro s
  refine ⟨fun h => ?_, fun hlive h => ?_, fun hdue value => ?_⟩
  · show onDevice lrstLow s = _
    rw [onDevice, lrstLow, if_pos h]
  · intro d
    obtain ⟨m, hm, hreset⟩ := localReset_resets d
    refine ⟨m, hreset, ?_⟩
    show onDevice lrstLow s = _
    rw [onDevice, lrstLow, if_neg (by simp [h])]
    dsimp only
    rw [unlessHeld_free (by exact hlive), State.nextWith, ← hm]
  · obtain ⟨m, hm, hreset⟩ := localReset_resets s.dev
    refine ⟨m, hreset, ?_⟩
    show onDevice writeLocalReset s = _
    rw [onDevice, writeLocalReset_due hdue, hm, State.nextWith]

/-! ## The values at full reset -/

theorem Device.reset_port (p : PortId) : Device.reset.port p = Port.reset := by cases p <;> rfl

theorem Device.reset_arbiter (p : PortId) : Device.reset.arbiter p = Egress.reset := by
  cases p <;> rfl

theorem Device.reset_slot (k : SlotId) : Device.reset.slot k = Slot.reset := by
  obtain ⟨p, k⟩ := k
  cases p <;> cases k <;> rfl

theorem Device.reset_channel (c : Fin 8) : Device.reset.channel c = Channel.reset := by
  simp [Device.channel, Device.reset, Capture.reset]

theorem Device.reset_buffer (b : Fin 32) : Device.reset.buffer b = { state := .pooled, channel := 0 } := by
  simp [Device.buffer, Device.reset, Capture.reset]

theorem Device.reset_entry (i : Fin 64) : Device.reset.table.entries[i] = Entry.reset := by
  simp [Device.reset, Table.reset]

theorem Device.reset_counter (c : CounterId) : Device.reset.counter c = 0 := by
  simp [Device.counter, Device.reset, Stats.reset]

theorem memoryWord_empty (a : Nat) : memoryWord [] a = 0 := by
  have hread : ∀ b, Memory.read [] b = 0 := fun _ => rfl
  rw [memoryWord, hread, hread, hread, hread]
  decide

/-- Settles O3, by the values of the fields at full reset. -/
theorem wordsReadAtReset : Obligations.WordsReadAtReset := by
  unfold Obligations.WordsReadAtReset
  refine ⟨by decide, by decide, by decide, by decide, by decide, by decide, by decide, by decide, by decide,
    by decide, by decide, by decide, Device.reset_counter, by decide, by decide, by decide, by decide,
    by decide, by decide, by decide, fun k w => ?_, fun i => ?_, by decide,
    fun p => ⟨Device.reset_port p, Device.reset_arbiter p⟩, rfl, rfl, rfl, Device.reset_entry, rfl, rfl,
    Device.reset_channel, Device.reset_buffer, rfl, rfl, rfl, rfl, Device.reset_slot, rfl, rfl, rfl, rfl,
    rfl, rfl, rfl⟩
  · show slotHeaderValue (Device.reset.slot k) w = 0
    rw [Device.reset_slot]
    cases w <;> decide
  · show memoryWord [] _ = 0
    rw [memoryWord_empty]

theorem Device.reset_accountsKept : Device.reset.AccountsKept := fun p => by
  rw [Device.reset_port]
  exact ⟨rfl, fun f hf => by cases hf⟩

theorem Device.reset_countsInRange : Device.reset.CountsInRange := fun p => by
  rw [Device.reset_port, Device.reset_arbiter]
  exact ⟨by decide, by decide, by decide⟩

theorem Device.reset_downPortsQuiet : Device.reset.DownPortsQuiet := fun p _ => by
  rw [Device.reset_port, Device.reset_arbiter]
  exact ⟨rfl, rfl, rfl, rfl, rfl⟩

theorem Device.reset_transmittersFollow : Device.reset.TransmittersFollow := fun p => by
  rw [Device.reset_port, Device.reset_arbiter]
  rfl

theorem Device.reset_receptionsCharged : Device.reset.ReceptionsCharged := fun p => by
  rw [Device.reset_port]
  exact Port.ReceptionCharged.ofNone rfl

theorem Device.reset_residentsUsed : Device.reset.ResidentsUsed := by
  rw [Device.residentsUsed_iff]
  intro p
  rw [Device.reset_port, Device.referenceKeys, Device.references, Device.reset_arbiter]
  exact ⟨⟨List.nodup_nil, fun r hr => (by cases hr), .none fun r hr => (by cases hr),
    .none fun r hr => (by cases hr)⟩, fun r hr => (by cases hr)⟩

theorem Device.reset_poolInCircuit : Device.reset.capture.PoolInCircuit := by
  have hpooled : ∀ b : Fin 32, Device.reset.capture.buffers[b].state = .pooled := fun b =>
    congrArg Buffer.state (Device.reset_buffer b)
  exact (Capture.poolInCircuit_iff _).2 ⟨Capture.pooled_listsInCircuit rfl rfl rfl hpooled,
    .ofNone hpooled fun c => congrArg Channel.held (Device.reset_channel c)⟩

theorem Device.reset_originKept : Device.reset.OriginKept := by
  obtain ⟨⟨hordered, hstaffed, halerted⟩, hanswering⟩ := Device.reset_desk
  exact (Device.originKept_iff _).2 ⟨hordered, hstaffed, hanswering, halerted⟩

/-- Settles O60: each invariant is read off the reset values. -/
theorem invariantsHoldAtReset : Obligations.InvariantsHoldAtReset := by
  obtain ⟨htable, hctl⟩ := Device.tablesLegal_ofReset (d := Device.reset) rfl rfl
  have hconfigured : ∀ c, (Device.reset.channel c).Configured := fun c => by
    rw [Device.reset_channel]
    exact Channel.reset_configured 0
  have hlinks : Device.reset.LinksLegal := ⟨by decide, by decide⟩
  have hmemories : Device.reset.MemoriesCanonical := ⟨Memory.wf_nil, Memory.wf_nil⟩
  have hnotices : Device.reset.NoticesAgree :=
    ⟨fun w hw => (by cases hw), fun n hn => (by cases hn), fun n hn => (by cases hn)⟩
  exact ⟨Device.reset_accountsKept, Device.reset_countsInRange, hlinks, Device.reset_downPortsQuiet,
    Device.reset_transmittersFollow, Device.reset_receptionsCharged, Device.reset_residentsUsed, htable,
    ⟨hctl, hconfigured⟩, Device.reset_originKept, Nat.zero_le 62, rfl, Device.reset_poolInCircuit,
    hmemories, hnotices, Device.reset_inTurn, fun _ => rfl⟩

end Sys2Proof.Machine

/-! SUPPORT. The link of a port: the seek, the link drop and ENABLE_B (R16 to R22). -/

namespace Sys2Proof.Machine

/-! ## The seek -/

theorem receiveSeek_of_seeking {p : PortId} {d : Device} (h : (d.port p).link = .seeking) :
    receiveSeek p d = d.onPort p fun P => { P with readySent := true } := by
  rw [receiveSeek, h]

theorem receiveReady_of_seeking {p : PortId} {d : Device} (h : (d.port p).link = .seeking) :
    receiveReady p d =
      if (d.port p).readySent then arbitrate (d.onPort p Port.goOnline)
      else d.onPort p fun P => { P with readySent := true } := by
  rw [receiveReady, h]

theorem Port.goOnline_of_between {P : Port} (h : P.tx = .between) :
    P.goOnline = { P with
      link := .online, errorRun := 0
      outstanding := P.outstanding + P.unannounced, unannounced := 0
      lastSent := if P.unannounced = 0 then [.ready] else [.ready, .credit P.unannounced] } := by
  simp only [Port.goOnline, h, Port.announce]

theorem Port.goOnline_of_aborting {P : Port} {owed : List Byte} {closing : Bool}
    (h : P.tx = .aborting owed closing) :
    P.goOnline = { P with link := .online, errorRun := 0, tx := .aborting owed true } := by
  rw [Port.goOnline, h]

theorem loseSignal_of_seeking {p : PortId} {d : Device} (h : (d.port p).link = .seeking) :
    loseSignal p d = d.onPort p fun P => { P with readySent := false } := by
  rw [loseSignal, h]

/-- LOSS_OF_SIGNAL at a live part: the level is recorded, then the port acts (R18). -/
theorem exec_lossOfSignal_live {s : State} (p : PortId) (h : s.dev.Live) :
    exec (.lossOfSignal p) s = s.nextWith (loseSignal p (s.dev.setSignal p false)) := by
  show onDevice (fun d => unlessHeld (loseSignal p) (d.setSignal p false)) s = _
  rw [onDevice, unlessHeld_free (by exact h), State.nextWith]

/-- Settles O7, by the state of the seek. -/
theorem seekHandshake : Obligations.SeekHandshake := by
  refine ⟨fun p v d => rfl, fun s p hlive hseek => ?_⟩
  have hready : exec (.rxReady p) s = s.nextWith (receiveReady p s.dev) := onDevice_live _ hlive
  rw [receiveReady_of_seeking hseek] at hready
  refine ⟨?_, fun hno => ?_, fun hyes htx => ?_, fun owed closing hyes htx => ?_, ?_, rfl⟩
  · have hexec : exec (.rxSeek p) s = s.nextWith (receiveSeek p s.dev) := onDevice_live _ hlive
    rw [hexec, receiveSeek_of_seeking hseek]
  · rw [hready, hno]
    rfl
  · rw [hready, if_pos hyes]
    exact congrArg (fun d => s.nextWith (arbitrate d))
      (Device.onPort_congr (Port.goOnline_of_between htx))
  · rw [hready, if_pos hyes]
    exact congrArg (fun d => s.nextWith (arbitrate d))
      (Device.onPort_congr (Port.goOnline_of_aborting htx))
  · rw [exec_lossOfSignal_live p hlive, loseSignal_of_seeking (by exact hseek)]

/-! ## Link drops -/

/-- Settles O8: each of the three events is the link drop. -/
theorem linkDropTakesThePortDown : Obligations.LinkDropTakesThePortDown := by
  intro s p ⟨hlive, honline⟩
  refine ⟨⟨_, ?_, linkDrop_drops p _⟩, ⟨_, ?_, linkDrop_drops p _⟩,
    fun herrors => ⟨_, ?_, linkDrop_drops p _⟩⟩
  · have hon : ((s.dev.setSignal p false).port p).link = .online := honline
    rw [exec_lossOfSignal_live p hlive, loseSignal, hon]
  · have hexec : exec (.rxSeek p) s = s.nextWith (receiveSeek p s.dev) := onDevice_live _ hlive
    rw [hexec, receiveSeek, honline]
  · have hexec : exec (.rxSymbolError p) s = s.nextWith (symbolError p s.dev) := onDevice_live _ hlive
    rw [hexec, symbolError, if_pos ((Port.online_eq_true_iff _).2 honline), herrors, if_pos (by decide)]

/-! ## ENABLE_B -/

/-- R20, R21, R76: port B as ENABLE_B takes it from ONLINE to OFFLINE. -/
def Port.disabled (P : Port) : Port :=
  { P.closeAccount with link := .offline, tx := abortTransmission P.tx }

theorem disableB_of_online {d : Device} (h : d.ports.b.link = .online) :
    disableB d = egressDown .b ({ d with enableB := false }.onPort .b Port.disabled) := by
  rw [disableB]
  dsimp only
  rw [h]
  rfl

theorem disableB_empties {d : Device} (h : d.ports.b.link = .online) :
    { d with enableB := false }.EgressEmptied (disableB d) .b
      ∧ (disableB d).port .b = (d.port .b).disabled := by
  rw [disableB_of_online h]
  refine ⟨(egressDown_empties rfl).ofPort, ?_⟩
  rw [egressDown_port, Device.port_onPort_self]
  rfl

/-- Settles O9, by the link state of port B. -/
theorem enableBSwitchesPortB : Obligations.EnableBSwitchesPortB := by
  intro s hlive
  have hset : exec .enableBSet s = s.nextWith (enableBOn s.dev) := onDevice_live _ hlive
  have hclear : exec .enableBClear s = s.nextWith (disableB s.dev) := onDevice_live _ hlive
  rw [hset, hclear]
  refine ⟨fun hlink => ?_, fun hlink => ?_, fun hlink => ?_, fun hlink => ?_, fun hlink => ?_, rfl,
    fun _ _ => rfl, fun _ _ => rfl⟩
  · have hb : s.dev.ports.b.link = .offline := hlink
    rw [enableBOn]
    dsimp only
    rw [hb]
  · rw [enableBOn]
    dsimp only
    split
    case h_1 hb => exact absurd hb hlink
    case h_2 => rfl
    case h_3 => rfl
  · have hb : s.dev.ports.b.link = .offline := hlink
    rw [disableB]
    dsimp only
    rw [hb]
  · have hb : s.dev.ports.b.link = .seeking := hlink
    rw [disableB]
    dsimp only
    rw [hb]
  · have hb : s.dev.ports.b.link = .online := hlink
    obtain ⟨hempty, hport⟩ := disableB_empties hb
    exact ⟨_, rfl, hempty, hport⟩

end Sys2Proof.Machine

/-! SUPPORT. Reception (R13, R16, R25 to R34): symbols between frames, the bytes of a frame, the judgement of
its header and its end. -/

namespace Sys2Proof.Machine

/-! ## Symbols by link state -/

@[simp] theorem decodedSymbol_rx (p : PortId) (d : Device) :
    ((decodedSymbol p d).port p).rx = (d.port p).rx := by
  rw [decodedSymbol, Device.port_onPort_self]

@[simp] theorem decodedSymbol_outstanding (p : PortId) (d : Device) :
    ((decodedSymbol p d).port p).outstanding = (d.port p).outstanding := by
  rw [decodedSymbol, Device.port_onPort_self]

@[simp] theorem decodedSymbol_errorRun (p : PortId) (d : Device) :
    ((decodedSymbol p d).port p).errorRun = 0 := by
  rw [decodedSymbol, Device.port_onPort_self]

theorem onlineSymbol_of_down {p : PortId} {d : Device} (f : Device → Device)
    (h : (d.port p).link ≠ .online) : onlineSymbol p f d = d := by
  simp [onlineSymbol, Port.online, h]

theorem symbolError_of_down {p : PortId} {d : Device} (h : (d.port p).link ≠ .online) :
    symbolError p d = d := by
  simp [symbolError, Port.online, h]

/-- R28: a symbol error short of the eighth in a row fills a byte position. -/
theorem symbolError_of_online {p : PortId} {d : Device} (h : (d.port p).link = .online)
    (hrun : (d.port p).errorRun < 7) :
    symbolError p d = receivePosition p none (d.onPort p fun P => { P with errorRun := P.errorRun + 1 }) := by
  rw [symbolError, if_pos ((Port.online_eq_true_iff _).2 h), if_neg (by omega)]

/-- READY at an ONLINE port is a symbol out of place (R32). -/
theorem exec_rxReady_of_online {s : State} {p : PortId} (h : s.dev.LiveOnline p) :
    exec (.rxReady p) s = s.nextWith (closeOutOfPlace p (decodedSymbol p s.dev)) := by
  obtain ⟨hlive, honline⟩ := h
  have hexec : exec (.rxReady p) s = s.nextWith (receiveReady p s.dev) := onDevice_live _ hlive
  rw [hexec, receiveReady, honline]
  dsimp only
  rw [onlineSymbol_of_online _ honline]

/-! ## Between frames -/

theorem receivePosition_of_none {p : PortId} {d : Device} (b : Option Byte)
    (h : (d.port p).rx = none) : receivePosition p b d = d := by
  rw [receivePosition, h]

theorem closeOutOfPlace_of_none {p : PortId} {d : Device} (h : (d.port p).rx = none) :
    closeOutOfPlace p d = d := by
  rw [closeOutOfPlace, h]

theorem receiveEof_of_none {p : PortId} {d : Device} (h : (d.port p).rx = none) :
    receiveEof p d = d := by
  rw [receiveEof, h]

theorem receiveAbort_of_none {p : PortId} {d : Device} (h : (d.port p).rx = none) :
    receiveAbort p d = d := by
  rw [receiveAbort, h]

theorem symbols_between_frames {s : State} {p : PortId} (b : Byte) (h : s.dev.LiveOnline p)
    (hrx : (s.dev.port p).rx = none) :
    ∀ i ∈ [Instr.rxIdle p, .rxReady p, .rxEof p, .rxAbort p, .rxDataSymbol p b],
      exec i s = s.nextWith (decodedSymbol p s.dev) := by
  have hnone : ((decodedSymbol p s.dev).port p).rx = none := by rw [decodedSymbol_rx, hrx]
  have hsymbol : ∀ f : Device → Device, f (decodedSymbol p s.dev) = decodedSymbol p s.dev →
      onDevice (unlessHeld (onlineSymbol p f)) s = s.nextWith (decodedSymbol p s.dev) := fun f hf => by
    rw [onDevice_onlineSymbol f h, hf]
  have hready : exec (.rxReady p) s = s.nextWith (decodedSymbol p s.dev) := by
    rw [exec_rxReady_of_online h, closeOutOfPlace_of_none hnone]
  simp only [List.forall_mem_cons]
  exact ⟨hsymbol _ (closeOutOfPlace_of_none hnone), hready, hsymbol _ (receiveEof_of_none hnone),
    hsymbol _ (receiveAbort_of_none hnone), hsymbol _ (receivePosition_of_none _ hnone),
    List.forall_mem_nil _⟩

/-- A port that is not ONLINE ignores every symbol but SEEK and READY (R16, R18). -/
theorem symbols_ignored {s : State} {p : PortId} (b : Byte) (n : Nat) (hlive : s.dev.Live)
    (h : (s.dev.port p).link ≠ .online) :
    ∀ i ∈ [Instr.rxIdle p, .rxCredit p n, .rxSof p, .rxEof p, .rxAbort p, .rxDataSymbol p b,
        .rxSymbolError p], exec i s = .next s := by
  have hsymbol : ∀ f, onDevice (unlessHeld (onlineSymbol p f)) s = .next s := fun f => by
    rw [onDevice_live _ hlive, onlineSymbol_of_down f h, State.nextWith]
  have herror : onDevice (unlessHeld (symbolError p)) s = .next s := by
    rw [onDevice_live _ hlive, symbolError_of_down h, State.nextWith]
  have hcredit : exec (.rxCredit p n) s = .next s := by
    show execRxCredit p n s = _
    rw [execRxCredit]
    split
    · exact hsymbol _
    · exact herror
  simp only [List.forall_mem_cons]
  exact ⟨hsymbol _, hcredit, hsymbol _, hsymbol _, hsymbol _, hsymbol _, herror, List.forall_mem_nil _⟩

theorem seek_ignored_offline {s : State} {p : PortId} (hlive : s.dev.Live)
    (h : (s.dev.port p).link = .offline) :
    exec (.rxSeek p) s = .next s ∧ exec (.rxReady p) s = .next s
      ∧ exec (.lossOfSignal p) s = s.nextWith (s.dev.setSignal p false) := by
  have hseek : exec (.rxSeek p) s = s.nextWith (receiveSeek p s.dev) := onDevice_live _ hlive
  have hready : exec (.rxReady p) s = s.nextWith (receiveReady p s.dev) := onDevice_live _ hlive
  have hoff : ((s.dev.setSignal p false).port p).link = .offline := h
  rw [hseek, hready, exec_lossOfSignal_live p hlive, receiveSeek, receiveReady, loseSignal, h, hoff]
  exact ⟨rfl, rfl, rfl⟩

/-- Settles O11, by the link state. -/
theorem symbolsBetweenFrames : Obligations.SymbolsBetweenFrames := by
  intro s p byte n hlive
  refine ⟨fun honline hrx => ⟨symbols_between_frames byte ⟨hlive, honline⟩ hrx, ?_, fun hrun => ?_⟩,
    symbols_ignored byte n hlive, seek_ignored_offline hlive, rfl, by decide⟩
  · have hexec : exec (.rxSof p) s = s.nextWith (receiveSof p (decodedSymbol p s.dev)) :=
      onDevice_onlineSymbol _ ⟨hlive, honline⟩
    rw [hexec, receiveSof, closeOutOfPlace_of_none (by rw [decodedSymbol_rx, hrx]), Device.setRx,
      decodedSymbol_onPort]
  · have hexec : exec (.rxSymbolError p) s = s.nextWith (symbolError p s.dev) := onDevice_live _ hlive
    rw [hexec, symbolError_of_online honline hrun, receivePosition_of_none]
    rw [Device.port_onPort_self]
    exact hrx

/-! ## Inside a frame -/

theorem RxFrame.fill_error (f : RxFrame) :
    f.fill none = { f with count := f.count + 1, damaged := true } := rfl

theorem RxFrame.fill_damaged {f : RxFrame} (h : f.damaged = true) (b : Byte) :
    f.fill (some b) = { f with count := f.count + 1 } := by
  rw [RxFrame.fill, if_pos h]

theorem RxFrame.fill_count (f : RxFrame) (b : Option Byte) : (f.fill b).count = f.count + 1 :=
  (f.fill_kept b).1

theorem receivePosition_of_some {p : PortId} {f : RxFrame} {d : Device} (b : Option Byte)
    (hrx : (d.port p).rx = some f) (h : f.count + 1 ≠ 8) :
    receivePosition p b d = d.setRx p (f.fill b) := by
  rw [receivePosition, hrx]
  dsimp only
  rw [if_neg (by rwa [RxFrame.fill_count])]

theorem receivePosition_eighth {p : PortId} {f : RxFrame} {d : Device} (b : Option Byte)
    (hrx : (d.port p).rx = some f) (h : f.count = 7) :
    receivePosition p b d = judgeHeader p (f.fill b) d := by
  rw [receivePosition, hrx]
  dsimp only
  rw [if_pos (by rw [RxFrame.fill_count, h])]

theorem exec_rxDataSymbol_of_online {s : State} {p : PortId} (b : Byte) (h : s.dev.LiveOnline p) :
    exec (.rxDataSymbol p b) s = s.nextWith (receivePosition p (some b) (decodedSymbol p s.dev)) :=
  onDevice_onlineSymbol _ h

theorem exec_rxSymbolError_of_online {s : State} {p : PortId} (h : s.dev.LiveOnline p)
    (hrun : (s.dev.port p).errorRun < 7) :
    exec (.rxSymbolError p) s = s.nextWith (receivePosition p none
      (s.dev.onPort p fun P => { P with errorRun := P.errorRun + 1 })) := by
  have hexec : exec (.rxSymbolError p) s = s.nextWith (symbolError p s.dev) := onDevice_live _ h.1
  rw [hexec, symbolError_of_online h.2 hrun]

/-- R13 (2), (3): the bits of the byte, bit 0 first, against the top bit of the register. -/
theorem checkByte_eq_foldl (register : Word) (b : Byte) : checkByte register b =
    (List.range 8).foldl (fun (r : Word) (i : Nat) =>
      if r.getLsbD 31 != b.getLsbD i then (r <<< 1) ^^^ 0x04C11DB7#32 else r <<< 1) register := by
  have hbit : ∀ (r : Word) (c : Bool), checkBit r c =
      if r.getLsbD 31 != c then (r <<< 1) ^^^ 0x04C11DB7#32 else r <<< 1 := fun r c => by
    rw [checkBit, BitVec.msb_eq_getLsbD_last]
  have hrange : List.range 8 = [0, 1, 2, 3, 4, 5, 6, 7] := by decide
  rw [checkByte, hrange]
  simp only [hbit]

/-- Settles O12, by the byte filled into the frame. -/
theorem bytePositionFilled : Obligations.BytePositionFilled := by
  refine ⟨fun s p f b honline hrx hcount => ⟨fun hgood => ?_, fun hbad => ?_, fun hrun => ?_⟩,
    checkByte_eq_foldl⟩
  · rw [exec_rxDataSymbol_of_online b honline,
      receivePosition_of_some _ (by rw [decodedSymbol_rx, hrx]) hcount, RxFrame.fill_good hgood,
      Device.setRx, decodedSymbol_onPort]
  · rw [exec_rxDataSymbol_of_online b honline,
      receivePosition_of_some _ (by rw [decodedSymbol_rx, hrx]) hcount, RxFrame.fill_damaged hbad,
      Device.setRx, decodedSymbol_onPort]
  · rw [exec_rxSymbolError_of_online honline hrun,
      receivePosition_of_some (f := f) _ (by rw [Device.port_onPort_self]; exact hrx) hcount,
      RxFrame.fill_error, Device.setRx, Device.onPort_onPort]

/-! ## The header -/

theorem frameKind_isSome_iff (k : BitVec 4) :
    (frameKind k).isSome = true ↔ 1 ≤ k.toNat ∧ k.toNat ≤ 6 := by
  revert k
  decide

/-- R9: the upper ten bits of a label are clear just when it is below 64. -/
theorem label_upper_clear_iff (l : Half) : l.extractLsb' 6 10 = 0 ↔ l.toNat < 64 := by
  rw [← BitVec.toNat_inj, BitVec.extractLsb'_toNat, Nat.shiftRight_eq_div_pow]
  have := l.isLt
  simp only [BitVec.ofNat_eq_ofNat, BitVec.toNat_ofNat]
  omega

theorem Header.wellFormed_iff (h : Header) : h.wellFormed = true ↔
    (1 ≤ h.kind.toNat ∧ h.kind.toNat ≤ 6) ∧ (h.spareSeq = 0 ∧ h.spareHops = 0)
      ∧ (h.kind = 2 → h.label.toNat < 64) ∧ h.length.toNat ≤ 1024 ∧ h.source.toNat ≤ 62 := by
  have hcode : FrameKind.mgmtReq.code = 2 := rfl
  simp only [Header.wellFormed, hcode, Bool.and_eq_true, Bool.or_eq_true, decide_eq_true_eq,
    frameKind_isSome_iff, label_upper_clear_iff]
  tauto

/-- The bytes of a frame whose eighth position is about to be filled. -/
theorem RxFrame.withByte_eighth {f : RxFrame} (b : Byte) (h : f.count = 7) :
    (f.withByte b).headerBytes = f.headerBytes ++ [b] ∧ (f.withByte b).damaged = f.damaged := by
  simp [RxFrame.withByte, h]

theorem judgeHeader_of_damaged {p : PortId} {f : RxFrame} {d : Device} (h : f.damaged = true) :
    judgeHeader p f d = d.setRx p f := by
  rw [judgeHeader, if_pos h]

/-- R29: an undamaged header is judged by its form, then by the blocks outstanding. -/
theorem judgeHeader_of_header {p : PortId} {f : RxFrame} {h : Header} (d : Device)
    (hgood : f.damaged = false) (hheader : decodeHeader f.headerBytes = some h) :
    (h.wellFormed = false → judgeHeader p f d =
        errorEvent .formatErr .format p (some h)
          (d.setRx p { f with header := some h, judged := .formatError }))
      ∧ (h.wellFormed = true → (d.port p).outstanding < h.blocks → judgeHeader p f d =
        errorEvent .creditViolation .creditViolation p (some h)
          ((d.setRx p { f with header := some h, judged := .creditViolation }).onPort p
            (Port.giveBack h.blocks)))
      ∧ (h.wellFormed = true → h.blocks ≤ (d.port p).outstanding → judgeHeader p f d =
        (d.setRx p { f with header := some h, charge := some h.blocks }).onPort p fun P =>
          { P with outstanding := P.outstanding - h.blocks }) := by
  rw [judgeHeader, hgood, hheader]
  refine ⟨fun hform => ?_, fun hform hcredit => ?_, fun hform hcredit => ?_⟩
  · simp [hform]
  · simp [hform, hcredit]
  · simp [hform, Nat.not_lt.2 hcredit]

/-- R30: a credit violation takes all that is outstanding. -/
theorem Port.giveBack_all {n : Nat} {P : Port} (h : P.outstanding < n) :
    P.giveBack n = { P with outstanding := 0, unannounced := P.unannounced + P.outstanding } := by
  rw [Port.giveBack, Nat.min_eq_right (Nat.le_of_lt h), Nat.sub_self]

/-- Settles O13, by the first step of the judgement that applies. -/
theorem headerJudged : Obligations.HeaderJudged := by
  refine ⟨fun b0 b1 b2 b3 b4 b5 b6 b7 => rfl, Header.wellFormed_iff, fun n => rfl, fun h => rfl,
    fun s p f b honline hrx hcount => ?_⟩
  have hdata : exec (.rxDataSymbol p b) s =
      s.nextWith (judgeHeader p (f.fill (some b)) (decodedSymbol p s.dev)) := by
    rw [exec_rxDataSymbol_of_online b honline,
      receivePosition_eighth _ (by rw [decodedSymbol_rx, hrx]) hcount]
  refine ⟨fun hbad => ?_, fun hrun => ?_, fun h hgood hheader => ?_⟩
  · rw [hdata, RxFrame.fill_damaged hbad, judgeHeader_of_damaged (by exact hbad), Device.setRx,
      decodedSymbol_onPort, hcount]
  · rw [exec_rxSymbolError_of_online honline hrun,
      receivePosition_eighth (f := f) _ (by rw [Device.port_onPort_self]; exact hrx) hcount,
      RxFrame.fill_error, judgeHeader_of_damaged rfl, Device.setRx, Device.onPort_onPort, hcount]
  · obtain ⟨hbytes, hdamaged⟩ := RxFrame.withByte_eighth b hcount
    rw [← hbytes] at hheader
    obtain ⟨hmisformed, hviolated, hcharged⟩ :=
      judgeHeader_of_header (p := p) (decodedSymbol p s.dev) (hdamaged.trans hgood) hheader
    rw [hdata, RxFrame.fill_good hgood]
    rw [decodedSymbol_outstanding] at hviolated hcharged
    refine ⟨fun hform => ?_, fun hform hcredit => ?_, fun hform hcredit => ?_⟩
    · rw [hmisformed hform, Device.setRx, decodedSymbol_onPort]
      rfl
    · rw [hviolated hform hcredit, Device.setRx, decodedSymbol_onPort, Device.onPort_onPort]
      exact congrArg
        (fun d => s.nextWith (errorEvent .creditViolation .creditViolation p (some h) d))
        (Device.onPort_congr (Port.giveBack_all hcredit))
    · rw [hcharged hform hcredit, Device.setRx, decodedSymbol_onPort, Device.onPort_onPort]

end Sys2Proof.Machine

/-! SUPPORT. The end of a frame in reception (R31 to R35, R57). -/

namespace Sys2Proof.Machine

/-! ## Frames closed -/

theorem closeFrame_decoded {p : PortId} {f : RxFrame} {d : Device} (hrx : (d.port p).rx = some f) :
    ∃ Q, closeFrame p f (decodedSymbol p d) = d.onPort p (fun _ => Q) ∧ Q.rx = none
      ∧ (d.port p).FrameClosed f Q := by
  obtain ⟨Q, hclose, hnone, hclosed⟩ :=
    closeFrame_closes (p := p) (f := f) (d := decodedSymbol p d) (by rw [decodedSymbol_rx, hrx])
      (decodedSymbol_errorRun p d)
  rw [decodedSymbol_onPort] at hclose
  rw [decodedSymbol, Device.port_onPort_self] at hclosed
  exact ⟨Q, hclose, hnone, hclosed⟩

/-- R31: a credit violation leaves nothing to settle. -/
theorem closeJudged_of_violation {p : PortId} {f : RxFrame} (d : Device)
    (h : f.judged = .creditViolation) :
    closeJudged p f (decodedSymbol p d) = d.onPort p fun P => { P with errorRun := 0, rx := none } := by
  rw [closeJudged, h]
  exact decodedSymbol_onPort p _ d

theorem closeJudged_of_formatError {p : PortId} {f : RxFrame} (d : Device)
    (h : f.judged = .formatError) : closeJudged p f d = closeFrame p f d := by
  rw [closeJudged, h]

/-! ## EOF -/

theorem receiveEof_of_some {p : PortId} {f : RxFrame} {d : Device} (hrx : (d.port p).rx = some f) :
    receiveEof p d = if f.judged = .unjudged then endAtEof p f d else closeJudged p f d := by
  rw [receiveEof, hrx]

/-- R31 (2): what makes the end of a frame a CRC error. -/
def RxFrame.FailsCheck (f : RxFrame) : Prop :=
  f.damaged = true ∨ (8 ≤ f.count ∧ f.lastFour ≠ wordBytes (~~~ f.check))

theorem RxFrame.failsCheck_iff (f : RxFrame) :
    f.FailsCheck ↔ f.damaged = true ∨ (8 ≤ f.count ∧ f.checkFails = true) := by
  simp [RxFrame.FailsCheck, RxFrame.checkFails]

theorem endAtEof_of_fails {p : PortId} {f : RxFrame} {d : Device} (h : f.FailsCheck) :
    endAtEof p f d = errorEvent .crcErr .crc p f.header (closeFrame p f d) := by
  rw [endAtEof, if_pos (f.failsCheck_iff.1 h)]

/-- R31 (3): the frame has not the length its header gives. -/
theorem endAtEof_of_misfit {p : PortId} {f : RxFrame} {d : Device} (h : ¬ f.FailsCheck)
    (hlen : ∀ hd n, f.header = some hd → f.charge = some n → f.count ≠ 12 + hd.length.toNat) :
    endAtEof p f d = errorEvent .formatErr .format p f.header (closeFrame p f d) := by
  rw [endAtEof, if_neg fun hc => h (f.failsCheck_iff.2 hc)]
  split
  case h_1 hd n hh hn => rw [if_neg (hlen hd n hh hn), hh]
  case h_2 => rfl

theorem endAtEof_of_fit {p : PortId} {f : RxFrame} {d : Device} {hd : Header} {n : Nat}
    (h : ¬ f.FailsCheck) (hh : f.header = some hd) (hn : f.charge = some n)
    (hlen : f.count = 12 + hd.length.toNat) :
    endAtEof p f d = arrive p hd n (f.stored.take hd.length.toNat) d := by
  rw [endAtEof, if_neg fun hc => h (f.failsCheck_iff.2 hc), hh, hn]
  exact if_pos hlen

/-- The resident frame that a good frame becomes, before its dispatch (R34, R57). -/
def Device.withArrived (d : Device) (p : PortId) (r : Resident) : Device :=
  (d.count (.port p .framesIn)).onPort p fun P =>
    { P with errorRun := 0, rx := none, residents := P.residents ++ [r] }

theorem arrive_decoded (p : PortId) (h : Header) (n : Nat) (payload : List Byte) (d : Device) :
    ∃ key, (∀ r ∈ (d.port p).residents, r.key ≠ key) ∧
      arrive p h n payload (decodedSymbol p d) = arbitrate ((dispatch p key { header := h, payload }
        (d.withArrived p { key, frame := { header := h, payload }, blocks := n
                           forwardUse := false, captureUse := false })).onPort p Port.release) := by
  have hresidents : ((decodedSymbol p d).port p).residents = (d.port p).residents := by
    rw [decodedSymbol, Device.port_onPort_self]
  refine ⟨((decodedSymbol p d).port p).freshKey, ?_, ?_⟩
  · rw [← hresidents]
    exact Port.freshKey_fresh _
  · have harrived := Device.onPort_onPort p (fun P => { P with errorRun := 0 })
      (fun P => { P with rx := none, residents := P.residents ++
        [{ key := ((decodedSymbol p d).port p).freshKey, frame := { header := h, payload }, blocks := n
           forwardUse := false, captureUse := false }] })
      (d.count (.port p .framesIn))
    exact congrArg (fun e => arbitrate ((dispatch p ((decodedSymbol p d).port p).freshKey
      { header := h, payload } e).onPort p Port.release)) harrived

/-- Settles O14, by the judgement at EOF. -/
theorem eofJudgesFrame : Obligations.EofJudgesFrame := by
  refine ⟨fun rs => rfl, fun s p f honline hrx => ?_⟩
  obtain ⟨Q, hclose, hnone, hclosed⟩ := closeFrame_decoded hrx
  have hexec : exec (.rxEof p) s = s.nextWith (receiveEof p (decodedSymbol p s.dev)) :=
    onDevice_onlineSymbol _ honline
  rw [receiveEof_of_some (by rw [decodedSymbol_rx, hrx])] at hexec
  rw [hexec]
  refine ⟨fun hj hcrc => ⟨Q, ?_, hnone, hclosed⟩, fun hj hcrc hlen => ⟨Q, ?_, hnone, hclosed⟩,
    fun h n hj hcrc hh hn hlen => ?_, fun hj => ?_, fun hj => ⟨Q, ?_, hnone, hclosed⟩⟩
  · rw [if_pos hj, endAtEof_of_fails hcrc, hclose]
    rfl
  · rw [if_pos hj, endAtEof_of_misfit hcrc hlen, hclose]
    rfl
  · obtain ⟨key, hfresh, harrive⟩ := arrive_decoded p h n (f.stored.take h.length.toNat) s.dev
    refine ⟨key, hfresh, ?_⟩
    rw [if_pos hj, endAtEof_of_fit hcrc hh hn hlen, harrive]
    rfl
  · rw [if_neg (by rw [hj]; decide), closeJudged_of_violation _ hj]
  · rw [if_neg (by rw [hj]; decide), closeJudged_of_formatError _ hj, hclose]

/-! ## The other ends -/

theorem receiveAbort_of_some {p : PortId} {f : RxFrame} {d : Device} (hrx : (d.port p).rx = some f) :
    receiveAbort p d =
      if f.judged = .unjudged then (closeFrame p f d).count (.port p .abortedIn)
      else closeJudged p f d := by
  rw [receiveAbort, hrx]
  rfl

theorem closeOutOfPlace_of_some {p : PortId} {f : RxFrame} {d : Device}
    (hrx : (d.port p).rx = some f) :
    closeOutOfPlace p d =
      if f.judged = .unjudged then errorEvent .formatErr .format p f.header (closeFrame p f d)
      else closeJudged p f d := by
  rw [closeOutOfPlace, hrx]

/-- IDLE, READY and SOF end a frame alike (R32). -/
theorem exec_out_of_place {s : State} {p : PortId} (h : s.dev.LiveOnline p) :
    exec (.rxAbort p) s = s.nextWith (receiveAbort p (decodedSymbol p s.dev))
      ∧ exec (.rxIdle p) s = s.nextWith (closeOutOfPlace p (decodedSymbol p s.dev))
      ∧ exec (.rxReady p) s = s.nextWith (closeOutOfPlace p (decodedSymbol p s.dev))
      ∧ exec (.rxSof p) s =
          s.nextWith ((closeOutOfPlace p (decodedSymbol p s.dev)).setRx p RxFrame.fresh) :=
  ⟨onDevice_onlineSymbol _ h, onDevice_onlineSymbol _ h, exec_rxReady_of_online h,
    onDevice_onlineSymbol _ h⟩

/-- What is left of a frame judged before its end (R31). -/
theorem closeJudged_decoded {p : PortId} {f : RxFrame} {d : Device} (hrx : (d.port p).rx = some f)
    (hj : f.judged ≠ .unjudged) :
    ∃ Q, closeJudged p f (decodedSymbol p d) = d.onPort p (fun _ => Q)
      ∧ (f.judged = .formatError → Q.rx = none ∧ (d.port p).FrameClosed f Q)
      ∧ (f.judged = .creditViolation → Q = { d.port p with errorRun := 0, rx := none }) := by
  cases hcase : f.judged with
  | unjudged => exact absurd hcase hj
  | formatError =>
    obtain ⟨Q, hclose, hclosed⟩ := closeFrame_decoded hrx
    exact ⟨Q, by rw [closeJudged_of_formatError _ hcase, hclose], fun _ => hclosed,
      by intro h; cases h⟩
  | creditViolation =>
    exact ⟨_, closeJudged_of_violation d hcase, (by intro h; cases h), fun _ => rfl⟩

/-- Settles O15, by whether the frame was judged. -/
theorem frameEndedEarly : Obligations.FrameEndedEarly := by
  intro s p f honline hrx
  obtain ⟨habort, hidle, hready, hsof⟩ := exec_out_of_place honline
  have hrx' : ((decodedSymbol p s.dev).port p).rx = some f := by rw [decodedSymbol_rx, hrx]
  rw [receiveAbort_of_some hrx'] at habort
  rw [closeOutOfPlace_of_some hrx'] at hidle hready hsof
  refine ⟨fun hj => ?_, fun hj => ?_⟩
  · obtain ⟨Q, hclose, hnone, hclosed⟩ := closeFrame_decoded hrx
    rw [if_pos hj, hclose] at habort hidle hready hsof
    exact ⟨Q, hnone, hclosed, habort, hidle, hready, hsof⟩
  · obtain ⟨Q, hclose, hformat, hviolation⟩ := closeJudged_decoded hrx hj
    rw [if_neg hj, hclose] at habort hidle hready hsof
    refine ⟨Q, hformat, hviolation, ?_, hsof⟩
    simp only [List.forall_mem_cons]
    exact ⟨habort, hidle, hready, List.forall_mem_nil _⟩

end Sys2Proof.Machine

/-! SUPPORT. Transmission (R24, R26, R36, R69, R72, R74): what each symbol sent makes of the part. -/

namespace Sys2Proof.Machine

/-! ## CREDIT and SOF -/

theorem sendCredit_of_owed {p : PortId} {d : Device} (honline : (d.port p).link = .online)
    (htx : (d.port p).tx = .between) (howed : (d.port p).unannounced ≠ 0) :
    sendCredit p d = d.onPort p fun P =>
      { P with outstanding := P.outstanding + P.unannounced, unannounced := 0
               lastSent := [.credit P.unannounced] } := by
  rw [sendCredit, if_pos ⟨(Port.online_eq_true_iff _).2 honline, htx, howed⟩]
  rfl

/-- R26: the SOF waits for the CREDIT owed (log 22). -/
theorem sendSof_of_owed {p : PortId} {d : Device} (howed : (d.port p).unannounced ≠ 0) :
    sendSof p d = d := by
  unfold sendSof
  split
  case h_1 => rfl
  case h_2 c hc =>
    dsimp only
    split
    case h_1 => rfl
    case h_2 => exact if_neg fun h => howed h.2.2.1

/-- The SOF of a chosen frame that is not being sent, with no CREDIT owed. -/
theorem sendSof_of_chosen {p : PortId} {d : Device} {c : ChosenFrame} {f : Frame}
    (honline : (d.port p).link = .online) (htx : (d.port p).tx = .between)
    (hc : (d.arbiter p).chosen = some { frame := c, sending := false })
    (hf : chosenContent p c d = some f) (howed : (d.port p).unannounced = 0) :
    sendSof p d =
      if chosenBlocks p c d ≤ (d.port p).held then
        (d.onPort p fun P =>
          { P with held := P.held - chosenBlocks p c d, tx := .sending f.bytes 0
                   lastSent := [.sof] }).onArbiter p fun a =>
          { a with chosen := some { frame := c, sending := true } }
      else d := by
  rw [sendSof, hc]
  dsimp only
  rw [hf]
  simp [(Port.online_eq_true_iff _).2 honline, htx, howed]

/-- Settles O16, by the CREDIT owed and the credit held. -/
theorem creditAndSofSent : Obligations.CreditAndSofSent := by
  refine ⟨fun s p ⟨hlive, honline⟩ htx => ?_, fun p d => ⟨fun kind f => ⟨rfl, rfl⟩,
    fun ref r hr => ⟨?_, rfl⟩, fun k o ho => ⟨?_, rfl⟩⟩⟩
  · have hcredit : exec (.txCredit p) s = s.nextWith (sendCredit p s.dev) := onDevice_live _ hlive
    have hsof : exec (.txSof p) s = s.nextWith (sendSof p s.dev) := onDevice_live _ hlive
    rw [hcredit, hsof]
    refine ⟨fun howed => ⟨?_, ?_⟩, fun c f hc hf howed => ?_⟩
    · rw [sendCredit_of_owed honline htx howed]
    · rw [sendSof_of_owed howed, State.nextWith]
    · rw [sendSof_of_chosen honline htx hc hf howed]
      refine ⟨fun hheld => by rw [if_pos hheld], fun hheld => ?_⟩
      rw [if_neg (Nat.not_le.2 hheld), State.nextWith]
  · rw [chosenContent, Port.findResident, hr]
    rfl
  · rw [chosenContent, ho]
    rfl

/-! ## Bytes and ABORT -/

/-- Settles O17, by the state of the transmitter. -/
theorem bytesAndAbortSent : Obligations.BytesAndAbortSent := by
  intro s p hlive
  have hdata : exec (.txDataSymbol p) s = s.nextWith (sendData p s.dev) := onDevice_live _ hlive
  have habort : exec (.txAbort p) s = s.nextWith (sendAbort p s.dev) := onDevice_live _ hlive
  rw [hdata, habort, sendData, sendAbort]
  refine ⟨fun b rest n htx => ?_, fun b owed closing htx => ?_, fun htx => ?_, fun htx => ?_,
    fun rest n => rfl⟩
  · rw [htx]
    rfl
  · rw [htx]
    exact ⟨rfl, rfl⟩
  · rw [htx]
    rfl
  · rw [htx]
    rfl

/-! ## EOF -/

/-- Settles O18, by the class of the chosen frame. -/
theorem eofEndsChosenFrame : Obligations.EofEndsChosenFrame := by
  intro s p c n hlive htx hc d kept settled withAlert drawn
  have hexec : exec (.txEof p) s = s.nextWith (sendEof p s.dev) := onDevice_live _ hlive
  have hdue : c.frame.waitsForReset s.dev.agent = false →
      exec (.txEof p) s = s.nextWith (arbitrate (finishFrame p c.frame d)) := fun hw => by
    rw [hexec, sendEof_due htx hc hw]
    rfl
  refine ⟨fun ref hf => ?_, fun k hf => ?_, fun f hf => ?_, fun f hf hreset => ?_, fun f hf hpending => ?_,
    fun f hf hpending => ?_⟩
  · rw [hf] at hdue
    refine ⟨_, hdue rfl, ?_, ?_, rfl⟩
    · rw [finishFrame, Device.port_onPort_self]
      exact Port.endForward_ends ref.key (d.port p.opposite)
    · rw [finishFrame, Device.port_onPort, if_neg (PortId.opposite_ne p).symm]
      rfl
  · rw [hf] at hdue
    exact ⟨_, completeSlot_completes p k d (.inl rfl), hdue rfl⟩
  · rw [hf] at hdue
    exact hdue rfl
  · rw [hf] at hdue
    rw [hdue hreset]
    rcases eitherOrder_cases arbitrate startRequest settled with h | h
    · exact .inl (congrArg (fun e => s.nextWith (arbitrate e)) h)
    · exact .inr (congrArg (fun e => s.nextWith (arbitrate e)) h)
  · rw [hf] at hdue
    have hnone : ¬ settled.stats.alertPending = true := fun h => by
      cases hpending.symm.trans h
    rw [hdue rfl, finishFrame, informOrigin, if_neg (by exact hnone)]
    rfl
  · rw [hf] at hdue
    rw [hdue rfl, finishFrame, informOrigin, if_pos (by exact hpending)]
    rcases eitherOrder_cases arbitrate (Device.placeOrigin .alert) settled with h | h
    · exact .inl (congrArg (fun e => s.nextWith (arbitrate e)) h)
    · exact .inr (congrArg (fun e => s.nextWith (arbitrate e)) h)

end Sys2Proof.Machine

/-! SUPPORT. Frames and records as they are sent, read back (R13, R14, R39, R127, R186). -/

namespace Sys2Proof.Machine

/-! ## The header -/

theorem headerByte_fields (k : BitVec 4) (s : Bool) (x : BitVec 3) :
    (k ++ bit s ++ x : Byte).extractLsb' 4 4 = k ∧ (k ++ bit s ++ x : Byte).getLsbD 3 = s
      ∧ (k ++ bit s ++ x : Byte).extractLsb' 0 3 = x := by
  revert k s x
  decide

theorem hopsByte_fields (x : BitVec 2) (h : BitVec 6) :
    (x ++ h : Byte).extractLsb' 6 2 = x ∧ (x ++ h : Byte).extractLsb' 0 6 = h := by
  revert x h
  decide

/-- Table 13.1 read back. -/
theorem decodeHeader_encodeHeader (h : Header) : decodeHeader (encodeHeader h) = some h := by
  obtain ⟨hkind, hseq, hspare⟩ := headerByte_fields h.kind h.seq h.spareSeq
  obtain ⟨hspareHops, hhops⟩ := hopsByte_fields h.spareHops h.hops
  simp only [encodeHeader, halfBytes, List.cons_append, List.nil_append, decodeHeader, hkind, hseq, hspare,
    hspareHops, hhops, halfOf_bytes]

theorem encodeHeader_length (h : Header) : (encodeHeader h).length = 8 := rfl

/-! ## The check trailer (R13, R31) -/

theorem RxFrame.takeCheck_eq_withByte (f : RxFrame) (b : Byte) : f.takeCheck b =
    { f with check := (f.withByte b).check, lastFour := (f.withByte b).lastFour } := by
  rcases hg : f.lastFour with _ | ⟨_, _ | ⟨_, _ | ⟨_, _ | ⟨_, _ | ⟨_, _⟩⟩⟩⟩⟩
  all_goals simp [RxFrame.takeCheck, RxFrame.withByte, hg]

/-- The last four bytes stay outside the check register; all before them have moved through it. -/
theorem foldl_takeCheck {l pre last : List Byte} {g : RxFrame} (hg : g.lastFour.length = 4)
    (hlast : last.length = 4) (h : g.lastFour ++ l = pre ++ last) :
    (l.foldl RxFrame.takeCheck g).check = pre.foldl checkByte g.check
      ∧ (l.foldl RxFrame.takeCheck g).lastFour = last := by
  induction l generalizing g pre with
  | nil =>
    have hpre : pre = [] := by
      have := congrArg List.length h
      simp only [List.length_append, List.length_nil] at this
      exact List.eq_nil_of_length_eq_zero (by omega)
    subst hpre
    exact ⟨rfl, by simpa using h⟩
  | cons x xs ih =>
    obtain ⟨a, b, c, d, habcd⟩ : ∃ a b c d, g.lastFour = [a, b, c, d] := List.length_eq_four.1 hg
    have hstep : g.takeCheck x = { g with check := checkByte g.check a, lastFour := [b, c, d, x] } := by
      rw [RxFrame.takeCheck, habcd]
    rw [habcd] at h
    cases pre with
    | nil =>
      have := congrArg List.length h
      simp only [List.length_append, List.length_cons, List.length_nil] at this
      omega
    | cons y ys =>
      obtain ⟨rfl, hrest⟩ := List.cons_eq_cons.1 h
      rw [List.foldl_cons, List.foldl_cons, hstep]
      exact ih rfl hrest

theorem foldl_takeCheck_fresh {covered last : List Byte} (hlast : last.length = 4)
    (hcovered : 4 ≤ covered.length) :
    ((covered ++ last).foldl RxFrame.takeCheck RxFrame.fresh).check = covered.foldl checkByte checkPreset
      ∧ ((covered ++ last).foldl RxFrame.takeCheck RxFrame.fresh).lastFour = last := by
  match covered, hcovered with
  | a :: b :: c :: d :: rest, _ =>
    exact foldl_takeCheck (g := { RxFrame.fresh with lastFour := [a, b, c, d] }) rfl hlast rfl

/-- The check covers header and payload (R14). -/
def Frame.covered (f : Frame) : List Byte := encodeHeader f.header ++ f.payload

theorem Frame.bytes_eq (f : Frame) :
    f.bytes = f.covered ++ wordBytes (~~~ (f.covered.foldl checkByte checkPreset)) := rfl

theorem Frame.covered_length (f : Frame) : f.covered.length = 8 + f.payload.length := by
  rw [Frame.covered, List.length_append, encodeHeader_length]

theorem Frame.take_covered (f : Frame) : f.bytes.take (8 + f.payload.length) = f.covered := by
  rw [Frame.bytes_eq, ← Frame.covered_length, List.take_left]

/-- Settles O19, by the parts of a frame as sent. -/
theorem sentFrameReadsBack : Obligations.SentFrameReadsBack := by
  refine ⟨fun f => by simp [RxFrame.checkFails], RxFrame.takeCheck_eq_withByte, fun f => ?_⟩
  rw [Frame.take_covered]
  refine ⟨?_, ?_, ?_, ?_, ?_⟩
  · rw [Frame.bytes_eq, List.length_append, Frame.covered_length]
    show 8 + f.payload.length + 4 = _
    omega
  · rw [Frame.bytes_eq, Frame.covered, List.append_assoc, ← encodeHeader_length f.header, List.take_left,
      decodeHeader_encodeHeader]
  · rw [Frame.bytes_eq, Frame.covered, List.append_assoc, ← encodeHeader_length f.header, List.drop_left,
      List.take_left]
  · rw [Frame.bytes_eq, ← Frame.covered_length, List.drop_left]
    rfl
  · obtain ⟨hcheck, hlast⟩ := foldl_takeCheck_fresh
      (last := wordBytes (~~~ (f.covered.foldl checkByte checkPreset))) (covered := f.covered) rfl
      (by rw [Frame.covered_length]; omega)
    rw [Frame.bytes_eq, RxFrame.checkFails, hcheck, hlast]
    simp

/-! ## Records -/

theorem encodeForm_laidOut (f : EntryForm) : EntryForm.LaidOut f (encodeForm f) := ⟨0, rfl⟩

theorem flagByte_ne_zero (c : Bool) : c = true ↔ flagByte c ≠ 0 := by
  cases c <;> decide

theorem Op.record_laidOut (o : Op) (h : ∀ data, o = .echo data → data.length ≤ 255) :
    Op.LaidOut o (Op.record o) := by
  cases o with
  | tableWrite i f => exact ⟨encodeForm f, encodeForm_laidOut f, rfl⟩
  | tableRead i c => exact ⟨flagByte c, rfl, flagByte_ne_zero c⟩
  | counterRead i c => exact ⟨flagByte c, rfl, flagByte_ne_zero c⟩
  | faultRead c => exact ⟨flagByte c, rfl, flagByte_ne_zero c⟩
  | echo data =>
    have hlen := h data rfl
    refine ⟨BitVec.ofNat 8 data.length, ?_, rfl⟩
    rw [BitVec.toNat_ofNat]
    exact Nat.mod_eq_of_lt (by omega)
  | readWord a | writeWord a v | modifyWord a v m | tableInvalidate i n | seqReset c | setNode n
  | stationReset => rfl

theorem Op.records_laidOut (ops : List Op) (h : ∀ data, Op.echo data ∈ ops → data.length ≤ 255) :
    Op.listLaidOut ops (ops.flatMap Op.record) := by
  induction ops with
  | nil => rfl
  | cons o ops ih =>
    exact ⟨Op.record o, _, Op.record_laidOut o fun data ho => h data (ho ▸ List.mem_cons_self),
      ih fun data hd => h data (List.mem_cons_of_mem o hd), List.flatMap_cons⟩

theorem appliesOf_code (x : Applies) : appliesOf x.code = some x := by
  cases x <;> rfl

theorem actionOf_code (x : Action) : actionOf x.code = some x := by
  cases x <;> rfl

theorem toNat_ofNat_byte {n : Nat} (h : n < 256) : (BitVec.ofNat 8 n).toNat = n := by
  rw [BitVec.toNat_ofNat]
  exact Nat.mod_eq_of_lt h

theorem entryOf_formOf {e : Entry} (h : e.WellFormed) : entryOf (formOf e) = some { e with hits := 0 } := by
  obtain ⟨hbase, hnew⟩ := h
  have horder : (BitVec.ofNat 8 e.order.val).toNat = e.order.val := toNat_ofNat_byte (by omega)
  have hchannel : (BitVec.ofNat 8 e.channel.val).toNat = e.channel.val := toNat_ofNat_byte (by omega)
  have hrange : e.order.val ≤ 16 ∧ e.channel.val ≤ 7 := ⟨by omega, by omega⟩
  have hplace : (aligned e.base e.order.val && (!e.translate || aligned e.newBase e.order.val)) = true := by
    cases ht : e.translate with
    | false => simp [hbase]
    | true => simp [hbase, hnew ht]
  simp [entryOf, formOf, appliesOf_code, actionOf_code, horder, hchannel, hrange, hplace]

/-- Settles O20, record by record and field by field. -/
theorem recordsReadBack : Obligations.RecordsReadBack :=
  ⟨Op.record_laidOut, fun n ops hn hecho =>
    (parseRecords_eq_some n _ ops).2 ⟨Op.records_laidOut ops hecho, hn⟩, fun _ => entryOf_formOf⟩

end Sys2Proof.Machine

/-! SUPPORT. The dispatch of a frame by its kind, the translation of a label and an enumeration (R46, R57 to
R61, R123, R148 to R152). -/

namespace Sys2Proof.Machine

/-! ## Translation (R46) -/

/-- An aligned range of a power of two does not pass the end of the labels. -/
theorem aligned_range_le {b k : Nat} (hk : k ≤ 16) (hb : b < 65536) (halign : b % 2 ^ k = 0) :
    b + 2 ^ k ≤ 65536 := by
  obtain ⟨q, rfl⟩ := Nat.dvd_of_mod_eq_zero halign
  obtain ⟨m, hm⟩ : 2 ^ k ∣ 65536 := by
    have h16 : (65536 : Nat) = 2 ^ 16 := by norm_num
    rw [h16]
    exact Nat.pow_dvd_pow 2 hk
  rw [hm] at hb ⊢
  have hq : q < m := Nat.lt_of_mul_lt_mul_left hb
  calc 2 ^ k * q + 2 ^ k = 2 ^ k * (q + 1) := (Nat.mul_succ _ _).symm
    _ ≤ 2 ^ k * m := Nat.mul_le_mul_left _ hq

theorem Entry.wellFormed_iff (e : Entry) : e.WellFormed ↔ e.base.toNat % 2 ^ e.order.val = 0
    ∧ (e.translate = true → e.newBase.toNat % 2 ^ e.order.val = 0) := by
  simp [Entry.WellFormed, aligned]

/-- R46: the place of the label in the entry's range is kept in the new range. -/
theorem Entry.forwardLabel_toNat {e : Entry} {label : Half} (h : e.WellFormed)
    (ht : e.translate = true) (hlow : e.base.toNat ≤ label.toNat)
    (hhigh : label.toNat ≤ e.base.toNat + 2 ^ e.order.val - 1) :
    (e.forwardLabel label).toNat = e.newBase.toNat + (label.toNat - e.base.toNat) := by
  obtain ⟨-, hnew⟩ := (Entry.wellFormed_iff e).1 h
  have hrange := aligned_range_le (by omega) e.newBase.isLt (hnew ht)
  have hpos : 0 < 2 ^ e.order.val := Nat.two_pow_pos _
  rw [Entry.forwardLabel, if_pos ht, BitVec.toNat_add, BitVec.toNat_sub_of_le hlow]
  exact Nat.mod_eq_of_lt (by omega)

/-- Settles O22, by the alignment of both bases. -/
theorem translationKeepsPlace : Obligations.TranslationKeepsPlace := by
  refine ⟨Entry.wellFormed_iff, fun e label h hlow hhigh => ⟨fun ht => ?_, fun ht => ?_⟩⟩
  · rw [Entry.forwardLabel, if_neg (by simp [ht])]
  · have hlabel := Entry.forwardLabel_toNat h ht hlow hhigh
    obtain ⟨hbase, hnew⟩ := (Entry.wellFormed_iff e).1 h
    refine ⟨hlabel, by omega, ?_⟩
    have hplace : label.toNat = e.base.toNat + (label.toNat - e.base.toNat) := by omega
    rw [hlabel, Nat.add_mod, hnew ht, Nat.zero_add, Nat.mod_mod]
    conv_rhs => rw [hplace, Nat.add_mod, hbase, Nat.zero_add, Nat.mod_mod]

/-! ## Dispatch by kind -/

theorem Header.target_toNat (h : Header) : h.target.toNat = h.label.toNat % 64 := by
  rw [Header.target, BitVec.extractLsb'_toNat]
  rfl

theorem dispatchRequest_of_target {h : Header} {d : Device} (key : Nat) (payload : List Byte)
    (ht : h.target = d.agent.node) (hn : d.agent.node ≠ 0) :
    dispatchRequest key h payload d = offerCopy h (requestCopy h payload false) d := by
  rw [dispatchRequest, if_pos ⟨ht, hn⟩]

theorem not_target {h : Header} {d : Device} (ht : h.target ≠ d.agent.node ∨ d.agent.node = 0) :
    ¬(h.target = d.agent.node ∧ d.agent.node ≠ 0) := by
  rintro ⟨htarget, hnode⟩
  exact ht.elim (fun h => h htarget) fun h => hnode h

theorem dispatchRequest_of_other {h : Header} {d : Device} (key : Nat) (payload : List Byte)
    (ht : h.target ≠ d.agent.node ∨ d.agent.node = 0) (hb : h.target ≠ 63) :
    dispatchRequest key h payload d = forwardPart .a key h h.label d := by
  rw [dispatchRequest, if_neg (not_target ht), if_neg hb]

theorem dispatchRequest_of_broadcast {h : Header} {d : Device} (key : Nat) (payload : List Byte)
    (ht : h.target ≠ d.agent.node ∨ d.agent.node = 0) (hb : h.target = 63) :
    dispatchRequest key h payload d =
      eitherOrder (fun d => arbitrate (forwardPart .a key h h.label d))
        (fun d => arbitrate (offerCopy h (requestCopy h payload true) d)) d := by
  rw [dispatchRequest, if_neg (not_target ht), if_pos hb]

theorem dispatch_data {f : Frame} (h : f.header.kind = 1) (p : PortId) (key : Nat) (d : Device) :
    dispatch p key f d = steer p key f.header d := by
  have hk : frameKind f.header.kind = some .data := by rw [h]; rfl
  unfold dispatch
  rw [hk]

theorem dispatch_request {f : Frame} (h : f.header.kind = 2) (key : Nat) (d : Device) :
    dispatch .a key f d = dispatchRequest key f.header f.payload d
      ∧ dispatch .b key f d = misroute .b f.header d := by
  have hk : frameKind f.header.kind = some .mgmtReq := by rw [h]; rfl
  unfold dispatch
  rw [hk]
  exact ⟨rfl, rfl⟩

theorem dispatch_enum {f : Frame} (h : f.header.kind = 4) (key : Nat) (d : Device) :
    dispatch .a key f d = dispatchEnum key f.header f.payload d
      ∧ dispatch .b key f d = misroute .b f.header d := by
  have hk : frameKind f.header.kind = some .enum := by rw [h]; rfl
  unfold dispatch
  rw [hk]
  exact ⟨rfl, rfl⟩

/-- R60, R61: the kinds that travel upward alone. -/
theorem dispatch_upward {f : Frame}
    (h : f.header.kind = 3 ∨ f.header.kind = 5 ∨ f.header.kind = 6) (key : Nat) (d : Device) :
    dispatch .a key f d = misroute .a f.header d
      ∧ dispatch .b key f d = forwardPart .b key f.header f.header.label d := by
  unfold dispatch
  rcases h with h | h | h
  all_goals
    rw [h]
    exact ⟨rfl, rfl⟩

/-- Settles O26, kind by kind. -/
theorem framesDispatchedByKind : Obligations.FramesDispatchedByKind := by
  refine ⟨Header.target_toNat, fun key f d => ?_⟩
  refine ⟨fun hk p => dispatch_data hk p key d, fun hk => ?_, fun hk => dispatch_enum hk key d,
    fun hk => dispatch_upward hk key d, fun q => ⟨fun hq => ?_, fun hq => ?_⟩⟩
  · obtain ⟨ha, hb⟩ := dispatch_request hk key d
    rw [ha]
    refine ⟨hb, fun ht hn => dispatchRequest_of_target key f.payload ht hn,
      fun ht hother => dispatchRequest_of_other key f.payload ht hother, fun ht hall => ?_⟩
    rw [dispatchRequest_of_broadcast key f.payload ht hall]
    exact eitherOrder_cases (fun d => arbitrate (forwardPart .a key f.header f.header.label d))
      (fun d => arbitrate (offerCopy f.header (requestCopy f.header f.payload true) d)) d
  · rw [offerCopy, if_pos hq]
    rfl
  · rw [offerCopy, if_neg (Nat.not_lt.2 hq)]
    rfl

/-! ## Enumeration -/

theorem enumPayload_of_bad {payload : List Byte}
    (h : ∀ mode next, payload = [mode, next] →
      ¬((mode = 1 ∨ mode = 2) ∧ 1 ≤ next.toNat ∧ next.toNat ≤ 63)) : enumPayload payload = none := by
  unfold enumPayload
  split
  case h_1 mode next => exact if_neg (h mode next rfl)
  case h_2 => rfl

theorem enumPayload_of_good {mode next : Byte} (hmode : mode = 1 ∨ mode = 2) (hlow : 1 ≤ next.toNat)
    (hhigh : next.toNat ≤ 63) : enumPayload [mode, next] = some (mode, next) := by
  rw [enumPayload, if_pos ⟨hmode, hlow, hhigh⟩]

theorem takesNumber_iff (mode : Byte) (node : BitVec 6) :
    takesNumber mode node = true ↔ mode = 2 ∨ node = 0 := by
  simp [takesNumber]

theorem portError_agent_lap (c : PortCounter) (k : FaultKind) (p : PortId) (h : Option Header)
    (d : Device) : (d.portError c k p h).agent = d.agent ∧ (d.portError c k p h).lap = d.lap := by
  rw [Device.portError, Device.report_agent, Device.report_lap]
  exact ⟨rfl, rfl⟩

/-- A pass touches neither the agent nor the LAP. -/
theorem passEnum_agent_lap (key : Nat) (h : Header) (mode next : Byte) (d : Device) :
    (passEnum key h mode next d).agent = d.agent ∧ (passEnum key h mode next d).lap = d.lap := by
  unfold passEnum
  split
  · exact portError_agent_lap _ _ _ _ d
  · split
    · exact ⟨rfl, rfl⟩
    · rw [placeEnumRet_frame]
      exact ⟨rfl, rfl⟩

theorem reportExhausted_agent_lap (h : Header) (d : Device) :
    (reportExhausted h d).agent = d.agent ∧ (reportExhausted h d).lap = d.lap := by
  rw [reportExhausted, Device.report_agent, Device.report_lap]
  exact ⟨rfl, rfl⟩

theorem passExhausted_agent_lap (key : Nat) (h : Header) (mode : Byte) (d : Device) :
    (passExhausted key h mode d).agent = d.agent ∧ (passExhausted key h mode d).lap = d.lap := by
  obtain ⟨hpass, heither⟩ := passExhausted_cases key h mode d
  by_cases hh : h.hops = 0
  · obtain horder | horder := heither hh
    · rw [horder, arbitrate_agent, arbitrate_lap, (passEnum_agent_lap _ _ _ _ _).1,
        (passEnum_agent_lap _ _ _ _ _).2, arbitrate_agent, arbitrate_lap,
        (reportExhausted_agent_lap _ _).1, (reportExhausted_agent_lap _ _).2]
      exact ⟨rfl, rfl⟩
    · rw [horder, arbitrate_agent, arbitrate_lap, (reportExhausted_agent_lap _ _).1,
        (reportExhausted_agent_lap _ _).2, arbitrate_agent, arbitrate_lap,
        (passEnum_agent_lap _ _ _ _ _).1, (passEnum_agent_lap _ _ _ _ _).2]
      exact ⟨rfl, rfl⟩
  · rw [hpass hh, (passEnum_agent_lap _ _ _ _ _).1, (passEnum_agent_lap _ _ _ _ _).2,
      (reportExhausted_agent_lap _ _).1, (reportExhausted_agent_lap _ _).2]
    exact ⟨rfl, rfl⟩

/-- R149, R150: an ENUM in order, by whether the station takes a number. -/
theorem dispatchEnum_of_good {h : Header} {mode next : Byte} (key : Nat) (d : Device)
    (hpayload : enumPayload [mode, next] = some (mode, next)) :
    (takesNumber mode d.agent.node = false →
        dispatchEnum key h [mode, next] d = passEnum key h mode next d)
      ∧ (takesNumber mode d.agent.node = true → next ≠ 63 →
        dispatchEnum key h [mode, next] d = passEnum key h mode (next + 1) (takeNumber next d))
      ∧ (takesNumber mode d.agent.node = true → next = 63 →
        dispatchEnum key h [mode, next] d = passExhausted key h mode d) := by
  have hdispatch : dispatchEnum key h [mode, next] d =
      if takesNumber mode d.agent.node = true then
        if next = 63 then passExhausted key h mode d
        else passEnum key h mode (next + 1) (takeNumber next d)
      else passEnum key h mode next d := by
    rw [dispatchEnum, hpayload]
  rw [hdispatch]
  refine ⟨fun ht => ?_, fun ht hnext => ?_, fun ht hnext => ?_⟩
  · rw [if_neg (by rw [ht]; decide)]
  · rw [if_pos ht, if_neg hnext]
  · rw [if_pos ht, if_pos hnext]

/-- R151, R152: how the pass goes on, by HOPS, the link of port B and the list. -/
theorem passEnum_of_hops_zero {h : Header} (hh : h.hops = 0) (key : Nat) (mode passed : Byte)
    (e : Device) : passEnum key h mode passed e =
      (e.count (.port .a .hopExpired)).report (portFault .hopExpired .a (some h)) := by
  rw [passEnum, if_pos hh]
  rfl

theorem passEnum_of_online {h : Header} {e : Device} (hh : h.hops ≠ 0)
    (hlink : (e.port .b).link = .online) (key : Nat) (mode passed : Byte) :
    passEnum key h mode passed e = makeReference .a key h h.label (some passed) e := by
  have hon : e.ports.b.online = true := (Port.online_eq_true_iff _).2 hlink
  rw [passEnum, if_neg hh, if_pos hon]

theorem passEnum_of_down {h : Header} {e : Device} (hh : h.hops ≠ 0)
    (hlink : (e.port .b).link ≠ .online) (key : Nat) (mode passed : Byte) :
    passEnum key h mode passed e = e.placeEnumRet (enumReturnFrame mode passed e) := by
  have hdown : ¬ e.ports.b.online = true := fun hon => hlink ((Port.online_eq_true_iff _).1 hon)
  rw [passEnum, if_neg hh, if_neg hdown]

theorem renewEnumRet_eq (f : Frame) (x : OriginEntry) : renewEnumRet f x =
    if x.body.kind = .enumRet then { x with body := .enumRet f x.chosen } else x := by
  obtain ⟨body, chosen⟩ := x
  cases body <;> rfl

/-- Settles O27, by the payload, the number and the pass. -/
theorem enumerationTakesAndPasses : Obligations.EnumerationTakesAndPasses := by
  intro key h payload d
  refine ⟨fun hbad => ?_, ?_⟩
  · rw [dispatchEnum, enumPayload_of_bad hbad]
    rfl
  rintro mode next rfl hmode hlow hhigh
  obtain ⟨hkeep, htake, hexhaust⟩ :=
    dispatchEnum_of_good (h := h) key d (enumPayload_of_good hmode hlow hhigh)
  refine ⟨fun hassign hnode => hkeep ?_, fun ht hnext => ⟨_, htake ((takesNumber_iff _ _).2 ht) ?_, rfl⟩,
    fun ht hnext => ?_, fun passed e => ⟨fun hh => passEnum_of_hops_zero hh key mode passed e,
      fun hh hlink => passEnum_of_online hh hlink key mode passed, fun hh hlink hlist => ?_,
      fun hh hlink hlist => ?_⟩⟩
  · subst hassign
    exact Bool.eq_false_iff.2 fun h => ((takesNumber_iff 1 _).1 h).elim (by decide) hnode
  · rintro rfl
    exact absurd hnext (by decide)
  · obtain ⟨hpass, heither⟩ := passExhausted_cases key h mode d
    rw [hexhaust ((takesNumber_iff _ _).2 ht) hnext]
    exact ⟨hpass, heither, passExhausted_agent_lap key h mode d⟩
  · rw [passEnum_of_down hh hlink, Device.placeEnumRet, if_neg (by rw [hlist]; decide)]
    rfl
  · rw [passEnum_of_down hh hlink, Device.placeEnumRet, if_pos hlist]
    exact congrArg (fun g => { e with origin := e.origin.map g })
      (funext (renewEnumRet_eq (enumReturnFrame mode passed e)))

end Sys2Proof.Machine

/-! SUPPORT. The completion of a copy, the notices and the returns of buffers (R93, R94, R97 to R101, R178). -/

namespace Sys2Proof.Machine

/-! ## Copies -/

/-- The item's bytes are in its buffer, and the buffer is posted under its notice (R93, R94). -/
def copyPosted (w : WorkItem) (rest : List WorkItem) (d : Device) : Device :=
  Device.onBuffer w.buffer (fun b => { b with state := .posted }) { d with
    capture := { d.capture with
      mem := Memory.writeBytes d.capture.mem (bufferBase w.buffer) ((itemPayload d w).take w.capturedLength)
      work := rest, delivery := d.capture.delivery ++ [noticeOf w] } }

/-- R94: the counters of a completed copy. -/
def countCopied (w : WorkItem) (d : Device) : Device :=
  if w.clipped then (d.count (.channel w.channel .captured)).count (.channel w.channel .clipped)
  else d.count (.channel w.channel .captured)

theorem completeCopy_eq {d : Device} {w : WorkItem} {rest : List WorkItem}
    (h : d.capture.work = w :: rest) :
    completeCopy d = (countCopied w (copyPosted w rest d)).onPort w.port (Port.endCapture w.key) := by
  rw [completeCopy, h]
  rfl

theorem countCopied_frame (w : WorkItem) (d : Device) : countCopied w d =
    { d with stats := { d.stats with counters := (countCopied w d).stats.counters } } := by
  unfold countCopied
  split <;> rfl

theorem countCopied_counter (w : WorkItem) (d : Device) (c : CounterId) :
    (countCopied w d).counter c =
      if c = .channel w.channel .captured ∨ (c = .channel w.channel .clipped ∧ w.clipped = true) then
        saturatingSucc (d.counter c)
      else d.counter c := by
  have hne : CounterId.channel w.channel .clipped ≠ .channel w.channel .captured := by
    intro h
    cases h
  have hcaptured := Device.countedOnly_count (.channel w.channel .captured) d
  unfold countCopied
  split
  case isTrue hclip =>
    rw [Device.countedOnly_count _ _ c]
    by_cases hc : c = .channel w.channel .clipped
    · subst hc
      rw [if_pos rfl, hcaptured, if_neg hne, if_pos (Or.inr ⟨rfl, hclip⟩)]
    · rw [if_neg hc, hcaptured]
      simp [hc]
  case isFalse hclip =>
    rw [hcaptured]
    simp [hclip]

theorem completeCopy_buffer {d : Device} {w : WorkItem} {rest : List WorkItem}
    (h : d.capture.work = w :: rest) (b : Fin 32) : (completeCopy d).buffer b =
      if b = w.buffer then { d.buffer b with state := .posted } else d.buffer b := by
  rw [completeCopy_eq h, countCopied_frame]
  show (copyPosted w rest d).buffer b = _
  rw [copyPosted, Device.buffer_onBuffer]
  split
  case isTrue hb =>
    subst hb
    rfl
  case isFalse => rfl

/-- Settles O29, by what a completed copy makes of each block. -/
theorem copyCompletionPostsNotice : Obligations.CopyCompletionPostsNotice := by
  intro s w rest hlive hw hwf P found bytes first ended
  have hexec : exec .copyCompletion s = s.nextWith (completeCopy s.dev) := onDevice_live _ hlive
  have hcapture : (completeCopy s.dev).capture = (copyPosted w rest s.dev).capture := by
    rw [completeCopy_eq hw, countCopied_frame]
    rfl
  refine ⟨completeCopy s.dev, hexec, ?_, ?_, fun a => ?_, completeCopy_buffer hw, ?_, ?_, fun c => ?_, ?_, ?_,
    completeCopy_egress s.dev, ?_⟩
  · rw [hcapture]
    rfl
  · rw [hcapture]
    rfl
  · rw [hcapture]
    exact Memory.read_writeBytes hwf first a bytes
  · rw [hcapture]
    rfl
  · rw [hcapture]
    rfl
  · rw [completeCopy_eq hw]
    exact countCopied_counter w _ c
  · rw [completeCopy_port hw, if_pos rfl]
    rfl
  · rw [completeCopy_port hw, if_neg (PortId.opposite_ne w.port)]
  · rw [completeCopy_eq hw, countCopied_frame]
    exact ⟨rfl, rfl, rfl, rfl, rfl, rfl⟩

/-! ## Notices -/

theorem takeNotice_of_cons {d : Device} {n : Notice} {rest : List Notice}
    (h : d.capture.delivery = n :: rest) :
    takeNotice d = Device.onBuffer n.buffer (fun b => { b with state := .taken }) { d with
      capture := { d.capture with delivery := rest }
      lap := { d.lap with latch := some n } } := by
  rw [takeNotice, h]

theorem takeNotice_of_nil {d : Device} (h : d.capture.delivery = []) :
    takeNotice d = { d with lap := { d.lap with latch := none } } := by
  rw [takeNotice, h]

theorem lapWordAt_noticeTake : lapWordAt 0x0008 = .noticeTake := by decide

theorem exec_noticeTake_due {s : State} (h : s.dev.WordDue .read 0x0008) :
    exec .noticeTake s = s.nextWith (s.dev.wordDone (takeNotice s.dev) .read 0x0008
      (latchValue (takeNotice s.dev).lap.latch 0)) := by
  have hread : lapRead (lapWordAt 0x0008) s.dev =
      (latchValue (takeNotice s.dev).lap.latch 0, takeNotice s.dev) := by
    rw [lapWordAt_noticeTake]
    rfl
  have hcontext : (takeNotice s.dev).lap.context = s.dev.lap.context := by
    unfold takeNotice
    split <;> rfl
  show onDevice (lapReadAt 0x0008) s = _
  rw [onDevice, lapReadAt_due h (by rw [hread]; exact hcontext), hread, State.nextWith]

/-- Table 13.11: the fields of the three words of a notice. -/
theorem latchValue_first (n : Notice) : latchValue (some n) 0 =
    (1 : BitVec 1) ++ (0 : BitVec 2) ++ BitVec.ofNat 5 n.buffer.val ++ (0 : BitVec 1)
      ++ BitVec.ofNat 3 n.channel.val ++ (0 : BitVec 3)
      ++ (match n.port with | .a => 0 | .b => 1 : BitVec 1) ++ (0 : BitVec 10)
      ++ BitVec.ofNat 6 n.entry.val := by
  apply BitVec.eq_of_getLsbD_eq
  intro i hi
  cases hp : n.port
  all_goals
    simp only [latchValue, place, BitVec.getLsbD_or, BitVec.getLsbD_shiftLeft, BitVec.getLsbD_setWidth,
      BitVec.getLsbD_append, hp]
    interval_cases i <;> simp [bit]

theorem latchValue_second (n : Notice) :
    latchValue (some n) 1 = n.label ++ (0 : BitVec 10) ++ n.source.extractLsb' 0 6 := by
  apply BitVec.eq_of_getLsbD_eq
  intro i hi
  simp only [latchValue, place, BitVec.getLsbD_or, BitVec.getLsbD_shiftLeft, BitVec.getLsbD_setWidth,
    BitVec.getLsbD_append]
  interval_cases i <;> simp

theorem latchValue_third (n : Notice) : latchValue (some n) 2 =
    BitVec.ofBool n.seq ++ BitVec.ofBool n.clipped ++ (0 : BitVec 3) ++ BitVec.ofNat 11 n.fullLength
      ++ (0 : BitVec 5) ++ BitVec.ofNat 11 n.capturedLength := by
  apply BitVec.eq_of_getLsbD_eq
  intro i hi
  simp only [latchValue, place, bit, BitVec.getLsbD_or, BitVec.getLsbD_shiftLeft,
    BitVec.getLsbD_setWidth, BitVec.getLsbD_append]
  interval_cases i <;> simp

/-- Settles O30, by the delivery queue and the fields of the words. -/
theorem noticeTaken : Obligations.NoticeTaken := by
  refine ⟨fun s hdue => ?_, fun d i => rfl, fun i => rfl, fun n =>
    ⟨latchValue_first n, latchValue_second n, latchValue_third n⟩⟩
  rw [exec_noticeTake_due hdue]
  refine ⟨fun n rest h => ?_, fun h => ?_⟩
  · rw [takeNotice_of_cons h]
    rfl
  · rw [takeNotice_of_nil h]
    rfl

/-! ## Returns -/

theorem returnBuffer_of_taken {v : Word} {b : Fin 32} {d : Device} (hv : v.toNat = b.val)
    (hb : (d.buffer b).state = .taken) : returnBuffer v d = acceptReturn b d := by
  have hlt : v.toNat < 32 := hv ▸ b.isLt
  have hfin : (⟨v.toNat, hlt⟩ : Fin 32) = b := Fin.ext hv
  rw [returnBuffer, dif_pos hlt, hfin, if_pos hb]

theorem returnBuffer_refused {v : Word} {d : Device}
    (h : 32 ≤ v.toNat ∨ ∃ b : Fin 32, v.toNat = b.val ∧ (d.buffer b).state ≠ .taken) :
    returnBuffer v d = arbitrate (refuseReturn v d) := by
  rcases h with h | ⟨b, hv, hb⟩
  · rw [returnBuffer, dif_neg (Nat.not_lt.2 h)]
  · have hlt : v.toNat < 32 := hv ▸ b.isLt
    have hfin : (⟨v.toNat, hlt⟩ : Fin 32) = b := Fin.ext hv
    rw [returnBuffer, dif_pos hlt, hfin, if_neg hb]

theorem acceptReturn_buffer (b x : Fin 32) (d : Device) : (acceptReturn b d).buffer x =
    if x = b then { d.buffer b with state := .pooled } else d.buffer x := by
  rw [acceptReturn, Device.buffer_onChannel]
  show (d.onBuffer b fun x => { x with state := .pooled }).buffer x = _
  rw [Device.buffer_onBuffer]

theorem acceptReturn_channel (b : Fin 32) (c : Fin 8) (d : Device) : (acceptReturn b d).channel c =
    if c = (d.buffer b).channel then { d.channel c with held := (d.channel c).held - 1 }
    else d.channel c := by
  rw [acceptReturn, Device.channel_onChannel]
  split
  case isTrue h =>
    subst h
    rfl
  case isFalse => rfl

/-- A write whose effect leaves the LAP's transaction alone. -/
theorem exec_lapWrite_due {s : State} {a : Half} {f : Device → Device} (h : s.dev.WordDue .write a)
    (hc : (f s.dev).lap.context = s.dev.lap.context) :
    onDevice (lapWrite a f) s = s.nextWith (s.dev.wordDone (f s.dev) .write a 0) := by
  rw [onDevice, lapWrite_due h hc, State.nextWith]

/-- Settles O31, by the state of the buffer. -/
theorem bufferReturned : Obligations.BufferReturned := by
  intro s v hdue
  have hexec : ∀ e, returnBuffer v s.dev = e → e.lap.context = s.dev.lap.context →
      exec (.freeReturn v) s = s.nextWith (s.dev.wordDone e .write 0x0010 0) := by
    rintro e rfl hcontext
    exact exec_lapWrite_due hdue hcontext
  refine ⟨fun b hv hb => ⟨acceptReturn b s.dev, hexec _ (returnBuffer_of_taken hv hb) rfl, rfl, ?_, ?_, rfl,
    rfl, rfl, rfl⟩, fun h => ?_⟩
  · exact fun x => acceptReturn_buffer b x s.dev
  · exact fun c => acceptReturn_channel b c s.dev
  · refine hexec _ (returnBuffer_refused h) ?_
    rw [arbitrate_lap]
    show ((s.dev.count .returnRejects).report _).lap.context = _
    rw [Device.report_lap]
    rfl

end Sys2Proof.Machine

/-! SUPPORT. The control words (R134 to R137, Table 13.8): their addresses, their layouts, and what a write
sets. -/

namespace Sys2Proof.Machine

/-! ## Addresses -/

theorem controlWord_eq_none_iff (address : Byte) : controlWord address = none ↔
    (0x0A ≤ address.toNat ∧ address.toNat ≤ 0x0F) ∨ 0x1F < address.toNat := by
  revert address
  decide

theorem controlWord_channel (c : Fin 8) :
    controlWord (0x10 + BitVec.ofNat 8 c.val) = some (.channelCfg c)
      ∧ controlWord (0x18 + BitVec.ofNat 8 c.val) = some (.channelState c) := by
  revert c
  decide

/-! ## Fields -/

theorem getLsbD_place {w : Nat} (v : BitVec w) (k i : Nat) :
    (place v k).getLsbD i = (decide (i < 32) && !decide (i < k) && v.getLsbD (i - k)) := by
  rw [place, BitVec.getLsbD_shiftLeft, BitVec.getLsbD_setWidth]
  by_cases h32 : i < 32
  · have hk : i - k < 32 := by omega
    simp [h32, hk]
  · simp [h32]

/-- R91: the buffers in a state, counted by their numbers. -/
theorem bufferCount_eq_countP (d : Device) (st : BufferState) :
    bufferCount d.capture st = (List.finRange 32).countP fun b => (d.buffer b).state = st := by
  have hlist : d.capture.buffers.toList = (List.finRange 32).map d.buffer := by
    apply List.ext_getElem
    · simp
    · intro i hi hi'
      simp [Device.buffer]
  rw [bufferCount, hlist, List.countP_map]
  rfl

/-- R37: the state of one port as 14 bits. -/
def portBits (P : Port) : BitVec 14 :=
  BitVec.ofNat 6 P.occupied ++ BitVec.ofNat 6 P.held ++ P.link.code

theorem portField_eq (P : Port) : portField P = place (portBits P) 0 := by
  apply BitVec.eq_of_getLsbD_eq
  intro i hi
  simp only [portField, portBits, BitVec.getLsbD_or, getLsbD_place, BitVec.getLsbD_append]
  interval_cases i <;> simp

/-! ## The words as read (Table 13.8) -/

theorem readControl_node (d : Device) : readControl d .node = (0 : BitVec 26) ++ d.agent.node := by
  apply BitVec.eq_of_getLsbD_eq
  intro i hi
  simp only [readControl, getLsbD_place, BitVec.getLsbD_append]
  interval_cases i <;> simp

theorem readControl_portCtl (d : Device) :
    readControl d .portCtl = (0 : BitVec 31) ++ BitVec.ofBool d.enableB := by
  apply BitVec.eq_of_getLsbD_eq
  intro i hi
  simp only [readControl, bit, getLsbD_place, BitVec.getLsbD_append]
  interval_cases i <;> simp

theorem readControl_portState (d : Device) : readControl d .portState =
    (0 : BitVec 2) ++ portBits (d.port .b) ++ (0 : BitVec 2) ++ portBits (d.port .a) := by
  have hread : readControl d .portState =
      place (portBits (d.port .a)) 0 ||| (place (portBits (d.port .b)) 0 <<< 16) := by
    rw [← portField_eq, ← portField_eq]
    rfl
  rw [hread]
  apply BitVec.eq_of_getLsbD_eq
  intro i hi
  simp only [BitVec.getLsbD_or, BitVec.getLsbD_shiftLeft, getLsbD_place, BitVec.getLsbD_append]
  interval_cases i <;> simp

theorem readControl_defaultAction (d : Device) : readControl d .defaultAction =
    (0 : BitVec 30) ++ BitVec.ofBool d.table.discardUp ++ BitVec.ofBool d.table.discardDown := by
  apply BitVec.eq_of_getLsbD_eq
  intro i hi
  simp only [readControl, bit, BitVec.getLsbD_or, getLsbD_place, BitVec.getLsbD_append]
  interval_cases i <;> simp

theorem readControl_egressCtl (d : Device) : readControl d .egressCtl =
    (0 : BitVec 18) ++ d.egressCtl.injectHops ++ (0 : BitVec 4) ++ d.egressCtl.injectShare := by
  apply BitVec.eq_of_getLsbD_eq
  intro i hi
  simp only [readControl, BitVec.getLsbD_or, getLsbD_place, BitVec.getLsbD_append]
  interval_cases i <;> simp

theorem readControl_faultMask (d : Device) :
    readControl d .faultMask = (0 : BitVec 20) ++ d.stats.mask := by
  apply BitVec.eq_of_getLsbD_eq
  intro i hi
  simp only [readControl, getLsbD_place, BitVec.getLsbD_append]
  interval_cases i <;> simp

theorem readControl_alertCtl (d : Device) : readControl d .alertCtl =
    (0 : BitVec 23) ++ BitVec.ofBool d.stats.alertPending ++ (0 : BitVec 7)
      ++ BitVec.ofBool d.stats.alertEnable := by
  apply BitVec.eq_of_getLsbD_eq
  intro i hi
  simp only [readControl, bit, BitVec.getLsbD_or, getLsbD_place, BitVec.getLsbD_append]
  interval_cases i <;> simp

theorem readControl_poolState (d : Device) : readControl d .poolState =
    (0 : BitVec 2) ++ BitVec.ofNat 6 (bufferCount d.capture .taken)
      ++ (0 : BitVec 2) ++ BitVec.ofNat 6 (bufferCount d.capture .posted)
      ++ (0 : BitVec 2) ++ BitVec.ofNat 6 (bufferCount d.capture .filling)
      ++ (0 : BitVec 2) ++ BitVec.ofNat 6 (bufferCount d.capture .pooled) := by
  apply BitVec.eq_of_getLsbD_eq
  intro i hi
  simp only [readControl, BitVec.getLsbD_or, getLsbD_place, BitVec.getLsbD_append]
  interval_cases i <;> simp

theorem readControl_channelCfg (d : Device) (c : Fin 8) : readControl d (.channelCfg c) =
    (0 : BitVec 5) ++ (d.channel c).clip ++ (0 : BitVec 2) ++ (d.channel c).quota
      ++ (0 : BitVec 6) ++ BitVec.ofBool (d.channel c).seqCheck
      ++ BitVec.ofBool (d.channel c).enabled := by
  apply BitVec.eq_of_getLsbD_eq
  intro i hi
  simp only [readControl, bit, BitVec.getLsbD_or, getLsbD_place, BitVec.getLsbD_append]
  interval_cases i <;> simp

theorem readControl_channelState (d : Device) (c : Fin 8) : readControl d (.channelState c) =
    (0 : BitVec 18) ++ BitVec.ofNat 6 (d.channel c).held
      ++ (0 : BitVec 6) ++ BitVec.ofBool (d.channel c).starved
      ++ BitVec.ofBool (d.channel c).expect := by
  apply BitVec.eq_of_getLsbD_eq
  intro i hi
  simp only [readControl, bit, BitVec.getLsbD_or, getLsbD_place, BitVec.getLsbD_append]
  interval_cases i <;> simp

/-! ## READ_WORD -/

theorem opReadWord_of_word {address : Byte} {w : ControlWord} (h : controlWord address = some w)
    (d : Device) : opReadWord address d = yieldsData (wordBytes (readControl d w)) d := by
  rw [opReadWord, h]

theorem opReadWord_of_none {address : Byte} (h : controlWord address = none) (d : Device) :
    opReadWord address d = failsWith .badAddress d := by
  rw [opReadWord, h]

theorem Port.occupied_spelled (P : Port) :
    P.occupied = P.charged + (P.residents.map Resident.blocks).sum
      ∧ (P.rx = none → P.charged = 0)
      ∧ ∀ f, P.rx = some f → (f.charge = none → P.charged = 0)
          ∧ ∀ n, f.charge = some n → P.charged = n := by
  refine ⟨rfl, fun h => ?_, fun f h => ⟨fun hc => ?_, fun n hc => ?_⟩⟩
  · rw [Port.charged, h]
  · rw [Port.charged, h]
    show f.charge.getD 0 = 0
    rw [hc]
    rfl
  · rw [Port.charged, h]
    show f.charge.getD 0 = n
    rw [hc]
    rfl

/-- Settles O33, by the addresses and the layout of each word. -/
theorem readWordReturnsTheWord : Obligations.ReadWordReturnsTheWord := by
  refine ⟨fun s b address h => ⟨fun w hw => exec_atOperation rfl h (opReadWord_of_word hw s.dev),
    fun hnone => exec_atOperation rfl h (opReadWord_of_none hnone s.dev),
    controlWord_eq_none_iff address⟩, by decide, controlWord_channel, fun w => rfl, Port.occupied_spelled,
    fun d => ?_⟩
  refine ⟨rfl, rfl, readControl_node d, readControl_portCtl d, ?_, readControl_defaultAction d,
    readControl_egressCtl d, readControl_faultMask d, readControl_alertCtl d, ?_,
    fun c => ⟨readControl_channelCfg d c, readControl_channelState d c⟩⟩
  · exact readControl_portState d
  · rw [readControl_poolState]
    simp only [bufferCount_eq_countP]

end Sys2Proof.Machine

/-! SUPPORT. WRITE_WORD and MODIFY_WORD (R135, R136): what may be written, what a write sets and what the
word then reads. -/

namespace Sys2Proof.Machine

/-! ## The outcomes -/

theorem opWriteWord_of_none {address : Byte} (h : controlWord address = none) (value : Word)
    (d : Device) : opWriteWord address value d = failsWith .badAddress d := by
  rw [opWriteWord, h]

/-- R135: the access, then the fields, decide. -/
theorem opWriteWord_of_word {address : Byte} {w : ControlWord} (h : controlWord address = some w)
    (value : Word) (d : Device) :
    (w.writable = false → opWriteWord address value d = failsWith .readOnly d)
      ∧ (w.writable = true → fieldsLegal w value = false →
        opWriteWord address value d = failsWith .badOperand d)
      ∧ (w.writable = true → fieldsLegal w value = true →
        opWriteWord address value d = yieldsData [] (writeControl w value d)) := by
  rw [opWriteWord, h]
  refine ⟨fun hw => ?_, fun hw hl => ?_, fun hw hl => ?_⟩
  · simp [hw]
  · simp [hw, hl]
  · simp [hw, hl]

theorem opModifyWord_of_none {address : Byte} (h : controlWord address = none) (value mask : Word)
    (d : Device) : opModifyWord address value mask d = failsWith .badAddress d := by
  rw [opModifyWord, h]

/-- R136: as a write of the merged value. -/
theorem opModifyWord_of_word {address : Byte} {w : ControlWord} (h : controlWord address = some w)
    (value mask : Word) (d : Device) :
    (w.writable = false → opModifyWord address value mask d = failsWith .readOnly d)
      ∧ (w.writable = true → fieldsLegal w (maskedValue (readControl d w) value mask) = false →
        opModifyWord address value mask d = failsWith .badOperand d)
      ∧ (w.writable = true → fieldsLegal w (maskedValue (readControl d w) value mask) = true →
        opModifyWord address value mask d = yieldsData
          (wordBytes (readControl (writeControl w (maskedValue (readControl d w) value mask) d) w))
          (writeControl w (maskedValue (readControl d w) value mask) d)) := by
  rw [opModifyWord, h]
  refine ⟨fun hw => ?_, fun hw hl => ?_, fun hw hl => ?_⟩
  · simp [hw]
  · simp [hw, hl]
  · simp [hw, hl]

theorem ControlWord.writable_iff (w : ControlWord) : w.writable = true ↔
    w = .portCtl ∨ w = .defaultAction ∨ w = .egressCtl ∨ w = .faultMask ∨ w = .alertCtl
      ∨ ∃ c, w = .channelCfg c := by
  cases w <;> simp [ControlWord.writable]

theorem fieldsLegal_iff (w : ControlWord) (v : Word) : fieldsLegal w v = true ↔
    (w = .egressCtl → v.extractLsb' 0 4 ≠ 0)
      ∧ ((∃ c, w = .channelCfg c) →
        (v.extractLsb' 16 11).toNat % 16 = 0 ∧ 16 ≤ (v.extractLsb' 16 11).toNat
          ∧ (v.extractLsb' 16 11).toNat ≤ 1024 ∧ (v.extractLsb' 8 6).toNat ≠ 0
          ∧ (v.extractLsb' 8 6).toNat ≤ 32) := by
  cases w with
  | egressCtl => simp [fieldsLegal]
  | channelCfg c =>
    have hquota : 1 ≤ (v.extractLsb' 8 6).toNat ↔ (v.extractLsb' 8 6).toNat ≠ 0 :=
      Nat.one_le_iff_ne_zero
    simp only [fieldsLegal, Bool.and_eq_true, decide_eq_true_eq, hquota]
    simp [and_assoc]
  | _ => simp [fieldsLegal]

/-! ## What a write sets -/

theorem enableBOn_enableB (d : Device) : (enableBOn d).enableB = true := by
  unfold enableBOn
  dsimp only
  split <;> rfl

theorem disableB_enableB (d : Device) : (disableB d).enableB = false := by
  by_cases hlink : d.ports.b.link = .online
  · obtain ⟨⟨-, -, -, -, -, -, -, -, -, hrest⟩, -⟩ := disableB_empties hlink
    rw [hrest]
  · have hdown : d.ports.b.online = false := by
      rw [Bool.eq_false_iff]
      exact fun hon => hlink ((Port.online_eq_true_iff _).1 hon)
    rw [disableB_frame hdown]

theorem writeEnableB_enableB (v : Bool) (d : Device) : (writeEnableB v d).enableB = v := by
  cases v
  · exact disableB_enableB d
  · exact enableBOn_enableB d

/-- R21, R22: the write of PORT_CTL is one of the two events at port B (log 9). -/
theorem exec_enableB {d : Device} (h : d.Live) (v : Bool) (waiting : List Instr) :
    exec (if v then .enableBSet else .enableBClear) ⟨d, waiting⟩ = .next ⟨writeEnableB v d, waiting⟩ := by
  cases v
  · exact onDevice_live (s := ⟨d, waiting⟩) disableB h
  · exact onDevice_live (s := ⟨d, waiting⟩) enableBOn h

theorem channel_writeControl (c : Fin 8) (v : Word) (d : Device) :
    (writeControl (.channelCfg c) v d).channel c =
      { d.channel c with enabled := v.getLsbD 0, seqCheck := v.getLsbD 1
                         quota := v.extractLsb' 8 6, clip := v.extractLsb' 16 11 } := by
  rw [writeControl, Device.channel_onChannel, if_pos rfl]

/-! ## What the word then reads -/

theorem readControl_write_portCtl (v : Word) (d : Device) :
    readControl (writeControl .portCtl v d) .portCtl = v &&& 0x00000001 := by
  have henable : (writeControl .portCtl v d).enableB = v.getLsbD 0 := writeEnableB_enableB _ d
  rw [readControl_portCtl, henable]
  apply BitVec.eq_of_getLsbD_eq
  intro i hi
  simp only [BitVec.getLsbD_and, BitVec.getLsbD_append]
  interval_cases i <;> simp

theorem readControl_write_defaultAction (v : Word) (d : Device) :
    readControl (writeControl .defaultAction v d) .defaultAction = v &&& 0x00000003 := by
  rw [readControl_defaultAction]
  apply BitVec.eq_of_getLsbD_eq
  intro i hi
  simp only [writeControl, BitVec.getLsbD_and, BitVec.getLsbD_append]
  interval_cases i <;> simp

theorem readControl_write_egressCtl (v : Word) (d : Device) :
    readControl (writeControl .egressCtl v d) .egressCtl = v &&& 0x00003F0F := by
  rw [readControl_egressCtl]
  apply BitVec.eq_of_getLsbD_eq
  intro i hi
  simp only [writeControl, BitVec.getLsbD_and, BitVec.getLsbD_append, BitVec.getLsbD_extractLsb']
  interval_cases i <;> simp

theorem readControl_write_faultMask (v : Word) (d : Device) :
    readControl (writeControl .faultMask v d) .faultMask = v &&& 0x00000FFF := by
  rw [readControl_faultMask]
  apply BitVec.eq_of_getLsbD_eq
  intro i hi
  simp only [writeControl, BitVec.getLsbD_and, BitVec.getLsbD_append, BitVec.getLsbD_extractLsb']
  interval_cases i <;> simp

/-- The pending flag takes no write (R167). -/
theorem readControl_write_alertCtl (v : Word) (d : Device) :
    readControl (writeControl .alertCtl v d) .alertCtl =
      (v &&& 0x00000001) ||| (readControl d .alertCtl &&& 0x00000100) := by
  rw [readControl_alertCtl, readControl_alertCtl]
  apply BitVec.eq_of_getLsbD_eq
  intro i hi
  simp only [writeControl, BitVec.getLsbD_or, BitVec.getLsbD_and, BitVec.getLsbD_append]
  interval_cases i <;> simp

theorem readControl_write_channelCfg (c : Fin 8) (v : Word) (d : Device) :
    readControl (writeControl (.channelCfg c) v d) (.channelCfg c) = v &&& 0x07FF3F03 := by
  rw [readControl_channelCfg, channel_writeControl]
  apply BitVec.eq_of_getLsbD_eq
  intro i hi
  simp only [BitVec.getLsbD_and, BitVec.getLsbD_append, BitVec.getLsbD_extractLsb']
  interval_cases i <;> simp

/-- Settles O34, by the access and the fields of each word. -/
theorem controlWordsWritten : Obligations.ControlWordsWritten := by
  refine ⟨fun s b address value mask => ⟨fun h => ⟨fun hnone =>
      exec_atOperation rfl h (opWriteWord_of_none hnone value s.dev), fun w hw => ?_⟩,
    fun h => ⟨fun hnone => exec_atOperation rfl h (opModifyWord_of_none hnone value mask s.dev),
      fun w hw => ?_⟩⟩, ControlWord.writable_iff, fieldsLegal_iff, fun v d =>
    ⟨rfl, rfl, rfl, rfl, fun c => rfl, fun hlive waiting => exec_enableB hlive _ waiting,
      readControl_write_portCtl v d, readControl_write_defaultAction v d, readControl_write_egressCtl v d,
      readControl_write_faultMask v d, readControl_write_alertCtl v d,
      fun c => readControl_write_channelCfg c v d⟩⟩
  · obtain ⟨hreadOnly, hillegal, hlegal⟩ := opWriteWord_of_word hw value s.dev
    exact ⟨fun hacc => exec_atOperation rfl h (hreadOnly hacc),
      fun hacc hfields => exec_atOperation rfl h (hillegal hacc hfields),
      fun hacc hfields => exec_atOperation rfl h (hlegal hacc hfields)⟩
  · obtain ⟨hreadOnly, hillegal, hlegal⟩ := opModifyWord_of_word hw value mask s.dev
    exact ⟨fun hacc => exec_atOperation rfl h (hreadOnly hacc),
      fun hacc hfields => exec_atOperation rfl h (hillegal hacc hfields),
      fun hacc hfields => exec_atOperation rfl h (hlegal hacc hfields)⟩

end Sys2Proof.Machine

/-! SUPPORT. The agent's events (R124 to R133, R140, R145): the fault record as read, the end of a batch, the
station reset and the start of a request. -/

namespace Sys2Proof.Machine

/-! ## FAULT_READ -/

theorem Device.withdrawAlert_eq (d : Device) : d.withdrawAlert =
    { d with
      stats := { d.stats with
        alertPending :=
          if d.origin.any OriginEntry.waitingAlert then false else d.stats.alertPending }
      origin := d.origin.filter fun e => !e.waitingAlert } := by
  rw [Device.withdrawAlert]
  split
  case isTrue => rfl
  case isFalse hnone =>
    have hkept : d.origin.filter (fun e => !e.waitingAlert) = d.origin := by
      rw [List.filter_eq_self]
      intro e he
      have : ¬ e.waitingAlert = true := fun hw => hnone (List.any_eq_true.2 ⟨e, he, hw⟩)
      simpa using this
    rw [hkept]

theorem opFaultRead_of_kept {clear : Bool} {d : Device} (h : clear = false ∨ d.stats.record = none) :
    opFaultRead clear d = yieldsData (faultForm d.stats.record d.stats.overflow) d := by
  have hkeep : (clear && d.stats.record.isSome) = false := by
    rcases h with h | h
    · rw [h, Bool.false_and]
    · rw [h]
      exact Bool.and_false _
  rw [opFaultRead, hkeep]
  rfl

theorem opFaultRead_of_cleared {d : Device} (h : d.stats.record ≠ none) :
    opFaultRead true d = yieldsData (faultForm d.stats.record d.stats.overflow) d.emptyRecord := by
  have hsome : (true && d.stats.record.isSome) = true := by
    rw [Bool.true_and]
    exact Option.isSome_iff_ne_none.2 h
  rw [opFaultRead, hsome]
  rfl

/-- Settles O37, by whether the record is emptied. -/
theorem faultRead : Obligations.FaultRead := by
  refine ⟨fun overflow => rfl, rfl, fun s b clear h => ⟨fun hkeep =>
    exec_atOperation rfl h (opFaultRead_of_kept hkeep), fun hclear hrecord => ?_⟩⟩
  subst hclear
  have hempty := Device.withdrawAlert_eq
    { s.dev with stats := { s.dev.stats with record := none, overflow := 0 } }
  have hread := opFaultRead_of_cleared hrecord
  rw [Device.emptyRecord, hempty] at hread
  exact exec_atOperation rfl h hread

/-! ## BATCH_END -/

theorem Op.head_of_laidOut {o : Op} {record : List Byte} (h : Op.LaidOut o record) :
    record.head? = some (Op.code o) := by
  cases o with
  | tableWrite i f =>
    obtain ⟨form, -, rfl⟩ := h
    rfl
  | tableRead i c | counterRead i c | faultRead c =>
    obtain ⟨flag, rfl, -⟩ := h
    rfl
  | echo data =>
    obtain ⟨n, -, rfl⟩ := h
    rfl
  | readWord a | writeWord a v | modifyWord a v m | tableInvalidate i n | seqReset c | setNode n
  | stationReset =>
    obtain rfl := h
    rfl

theorem endBatch_of_over {d : Device} {b : Batch} {q : RequestCopy} {rest : List RequestCopy}
    (hb : d.agent.batch = some b) (hq : d.agent.queue = q :: rest)
    (hover : b.failed = true ∨ b.waiting = []) (hdue : d.agent.resetDue = false) :
    endBatch d = arbitrate (((answerRequest q.tag b.payload d).count .requests).onAgent fun a =>
      { a with batch := none, resetDue := b.resetRan }) := by
  have hends : b.over = true := by
    rcases hover with h | h
    · rw [Batch.over, h, Bool.true_or]
    · rw [Batch.over, h]
      exact Bool.or_true _
  rw [endBatch, hb, hq]
  simp [hends, hdue]

/-- Settles O40: the reply of the batch is composed and placed. -/
theorem batchEndAnswers : Obligations.BatchEndAnswers := by
  refine ⟨fun o record => Op.head_of_laidOut, fun s b q rest hlive hb hq hover hdue => ?_⟩
  have hexec : exec .batchEnd s = s.nextWith (endBatch s.dev) := onDevice_live _ hlive
  intro results status record r h
  have htail : s.dev.agent.queue.tail = rest := by rw [hq, List.tail_cons]
  have hbytes : OpResult.bytes = record := by
    funext x
    obtain ⟨code, st, data⟩ := x
    cases st <;> rfl
  have hreply : composeReply q.tag b.payload s.dev = r := by
    rw [composeReply, Batch.payload, replyPayload, hbytes]
    rfl
  rw [hexec, endBatch_of_over hb hq hover hdue, answerRequest, hreply]
  subst htail
  rfl

/-! ## STATION_RESET_APPLIED -/

/-- An event that does nothing, whether or not RESET holds the part. -/
theorem onDevice_idle {s : State} {f : Device → Device} (h : f s.dev = s.dev) :
    onDevice (unlessHeld f) s = .next s := by
  rw [onDevice, unlessHeld, h, ite_self]

theorem exec_operation_resetDue {s : State} (h : s.dev.agent.resetDue = true) (o : Op) :
    exec (Op.command o) s = .next s := by
  cases o
  all_goals exact onDevice_idle (runOperation_resetDue h)

theorem stationReset_channel (c : Fin 8) (d : Device) :
    (stationReset d).channel c = { Channel.reset with held := (d.channel c).held } := by
  simp [stationReset, Device.channel, Channel.stationReset]

/-- Settles O41, by whether a station reset is due. -/
theorem stationResetApplied : Obligations.StationResetApplied := by
  refine ⟨fun s hnone => onDevice_idle (by rw [hnone]; rfl), fun s hdue =>
    ⟨exec_operation_resetDue hdue, onDevice_idle (endBatch_resetDue hdue), startRequest_resetDue hdue,
      fun p f sending hc => onDevice_idle (sendEof_reply_resetDue hdue hc rfl)⟩, fun s hlive hdue => ?_⟩
  have hexec : exec .stationResetApplied s = s.nextWith (stationReset s.dev) :=
    (onDevice_live _ hlive).trans (by rw [hdue]; rfl)
  exact ⟨stationReset s.dev, hexec, rfl, rfl, Device.reset_entry, fun c => stationReset_channel c s.dev, rfl,
    rfl, rfl, rfl, rfl, rfl, rfl, rfl, rfl, rfl, rfl, rfl⟩

end Sys2Proof.Machine

/-! SUPPORT. The start of a request (R124, R126) and which payloads are in order (R128). -/

namespace Sys2Proof.Machine

/-! ## The payload of a request -/

theorem any_isStationReset_iff (ops : List Op) :
    ops.any Op.isStationReset = true ↔ Op.stationReset ∈ ops := by
  rw [List.any_eq_true]
  constructor
  · rintro ⟨o, ho, hreset⟩
    cases o with
    | stationReset => exact ho
    | _ => cases hreset
  · exact fun h => ⟨_, h, rfl⟩

theorem any_isSetNode_iff (ops : List Op) :
    ops.any Op.isSetNode = true ↔ ∃ n, Op.setNode n ∈ ops := by
  rw [List.any_eq_true]
  constructor
  · rintro ⟨o, ho, hnode⟩
    cases o with
    | setNode n => exact ⟨n, ho⟩
    | _ => cases hnode
  · rintro ⟨n, h⟩
    exact ⟨_, h, rfl⟩

/-- R128 beyond the form of the records. -/
def Op.ListInOrder (broadcast : Bool) (ops : List Op) : Prop :=
  ops ≠ [] ∧ Op.stationReset ∉ ops.dropLast ∧ (broadcast = true → ∀ n, Op.setNode n ∉ ops)

theorem Op.listInOrder_iff (broadcast : Bool) (ops : List Op) :
    Op.ListInOrder broadcast ops ↔
      (ops.isEmpty || ops.dropLast.any Op.isStationReset || (broadcast && ops.any Op.isSetNode))
        = false := by
  rw [Bool.eq_false_iff]
  simp only [Op.ListInOrder, ne_eq, Bool.or_eq_true, Bool.and_eq_true, List.isEmpty_iff,
    any_isStationReset_iff, any_isSetNode_iff, not_or, not_and, not_exists]
  tauto

theorem parseRequest_eq_some (broadcast : Bool) (payload : List Byte) (ops : List Op) :
    parseRequest broadcast payload = some ops ↔
      parseRecords 16 payload = some ops ∧ Op.ListInOrder broadcast ops := by
  rw [parseRequest]
  cases hparse : parseRecords 16 payload with
  | none => simp
  | some found =>
    dsimp only
    split
    case isTrue hbad =>
      constructor
      · intro h
        cases h
      · rintro ⟨h, horder⟩
        cases h
        rw [Op.listInOrder_iff, hbad] at horder
        cases horder
    case isFalse hgood =>
      have horder := (Op.listInOrder_iff broadcast found).2 (Bool.eq_false_iff.2 hgood)
      constructor
      · intro h
        cases h
        exact ⟨rfl, horder⟩
      · rintro ⟨h, -⟩
        exact h

theorem parseRequest_spelled (broadcast : Bool) (payload : List Byte) (ops : List Op) :
    parseRequest broadcast payload = some ops ↔
      Op.listLaidOut ops payload ∧ 1 ≤ ops.length ∧ ops.length ≤ 16
        ∧ Op.stationReset ∉ ops.dropLast ∧ (broadcast = true → ∀ n, Op.setNode n ∉ ops) := by
  rw [parseRequest_eq_some, parseRecords_eq_some, Op.ListInOrder, Nat.one_le_iff_ne_zero, ne_eq,
    ne_eq, List.length_eq_zero_iff]
  tauto

/-! ## The start -/

theorem startRequest_of_busy {d : Device}
    (h : d.agent.batch ≠ none ∨ d.hasOrigin .reply = true ∨ d.agent.queue = []) : startRequest d = d := by
  unfold startRequest
  split
  case isFalse => rfl
  case isTrue hready =>
    obtain ⟨hbatch, hreply, -⟩ := hready
    rcases h with h | h | h
    · exact absurd hbatch h
    · rw [h] at hreply
      cases hreply
    · rw [h]

/-- The broadcast is counted before the request runs (R157). -/
def countBroadcast (q : RequestCopy) (d : Device) : Device :=
  if q.broadcast then d.count .broadcasts else d

theorem countBroadcast_frame (q : RequestCopy) (d : Device) :
    countBroadcast q d = { d with stats := (countBroadcast q d).stats } := by
  unfold countBroadcast
  split <;> rfl

theorem startRequest_of_ready {d : Device} {q : RequestCopy} {rest : List RequestCopy}
    (hbatch : d.agent.batch = none) (hreply : d.hasOrigin .reply = false)
    (hdue : d.agent.resetDue = false) (hq : d.agent.queue = q :: rest) :
    startRequest d = runRequest q (countBroadcast q d) := by
  rw [startRequest, if_pos ⟨hbatch, by rw [hreply]; rfl, by rw [hdue]; rfl⟩, hq]
  rfl

theorem replayFor_of_repeat {tag : Byte} {a : Agent} {r : Reply} (h0 : tag ≠ 0) (hlast : tag = a.lastTag)
    (hr : a.replay = some r) : replayFor tag a = some r := by
  rw [replayFor, if_pos ⟨h0, hlast⟩, hr]

theorem replayFor_of_fresh {tag : Byte} {a : Agent}
    (h : tag = 0 ∨ tag ≠ a.lastTag ∨ a.replay = none) : replayFor tag a = none := by
  unfold replayFor
  split
  case isFalse => rfl
  case isTrue hrepeat =>
    obtain ⟨h0, hlast⟩ := hrepeat
    rcases h with h | h | h
    · exact absurd h h0
    · exact absurd hlast h
    · exact h

theorem runRequest_of_repeat {q : RequestCopy} {d : Device} {r : Reply}
    (h : replayFor q.tag d.agent = some r) : runRequest q d = replayRequest r d := by
  rw [runRequest, h]

theorem runRequest_of_fresh {q : RequestCopy} {d : Device} (h : replayFor q.tag d.agent = none) :
    (parseRequest q.broadcast q.payload = none →
        runRequest q d = answerRequest q.tag malformedPayload (d.count .malformed))
      ∧ ∀ ops, parseRequest q.broadcast q.payload = some ops → runRequest q d =
        d.onAgent fun a =>
          { a with batch := some { waiting := ops, results := [], failed := false } } := by
  rw [runRequest, h]
  exact ⟨fun hp => by rw [hp], fun ops hp => by rw [hp]⟩

/-- Settles O42, by the replay store and the records of the payload. -/
theorem requestStarted : Obligations.RequestStarted := by
  refine ⟨fun d => ⟨startRequest_of_busy, fun q rest hbatch hreply hdue hq => ?_⟩, parseRequest_spelled⟩
  have hstart := startRequest_of_ready hbatch hreply hdue hq
  obtain ⟨x, hx⟩ : ∃ x, countBroadcast q d = { d with stats := x } := ⟨_, countBroadcast_frame q d⟩
  have hqueue : d.agent.queue.tail = rest := by rw [hq, List.tail_cons]
  intro e malformed entry
  have he : e = { d with stats := x } := hx
  rw [he, hstart, hx]
  subst hqueue
  refine ⟨fun r h0 hlast hr => ?_, fun hfresh => ?_⟩
  · exact runRequest_of_repeat (replayFor_of_repeat h0 hlast hr)
  · obtain ⟨hmalformed, hbatch⟩ :=
      runRequest_of_fresh (d := { d with stats := x }) (replayFor_of_fresh hfresh)
    exact ⟨hmalformed, hbatch⟩

end Sys2Proof.Machine

/-! SUPPORT. The transaction form of the LAP (R171 to R173, R184, R187): which words are taken and which are
refused. -/

namespace Sys2Proof.Machine

/-! ## Addresses -/

theorem half_eq_iff (a : Half) (n : Nat) (h : n < 65536) : a = BitVec.ofNat 16 n ↔ a.toNat = n := by
  rw [← BitVec.toNat_inj, BitVec.toNat_ofNat, Nat.mod_eq_of_lt h]

theorem readOnlyWrite_wellFormed_iff (a : Half) (v : Word) :
    Instr.WellFormed (.lapReadOnlyWrite a v) ↔
      a ∉ [0x0002, 0x0003, 0x0004, 0x0010, 0x0014, 0x0015, 0x0018, 0x0019]
        ∧ ¬(0x0020 ≤ a.toNat ∧ a.toNat ≤ 0x0027) ∧ ¬(0x0200 ≤ a.toNat ∧ a.toNat ≤ 0x02FF) := by
  simp only [Instr.WellFormed, Instr.wellFormed, lapWritable, List.mem_cons, List.not_mem_nil, or_false,
    ← BitVec.toNat_inj, Bool.not_eq_true', Bool.or_eq_false_iff, beq_eq_false_iff_ne, Bool.and_eq_false_iff,
    decide_eq_false_iff_not]
  simp only [BitVec.ofNat_eq_ofNat, BitVec.toNat_ofNat]
  omega

/-- The words whose complete write is refused (R173, R187). -/
def LapWord.takesNoWrite : LapWord → Bool
  | .localIdent | .localStatus | .noticeTake | .latchWord _ | .bufData _ | .unmapped => true
  | .localCause | .localEnable | .localReset | .freeReturn | .slotHandover | .slotRecall
  | .bufSelect | .slotSelect | .slotHeader _ _ | .slotData _ => false

/-- Above 0027H only the two windows are words (Table 13.10). -/
theorem lapWordAt_of_ge {a : Half} (h : 0x0028 ≤ a.toNat) : lapWordAt a =
    if 0x0100 ≤ a.toNat ∧ a.toNat ≤ 0x01FF then .bufData (BitVec.ofNat 8 a.toNat)
    else if 0x0200 ≤ a.toNat ∧ a.toNat ≤ 0x02FF then .slotData (BitVec.ofNat 8 a.toNat)
    else .unmapped := by
  unfold lapWordAt
  generalize a.toNat = n at h
  split
  case h_25 => rfl
  all_goals omega

theorem takesNoWrite_below : ∀ n : Fin 40, lapWritable (BitVec.ofNat 16 n.val) = false →
    (lapWordAt (BitVec.ofNat 16 n.val)).takesNoWrite = true := by decide

theorem takesNoWrite_of_not_writable {a : Half} (h : lapWritable a = false) :
    (lapWordAt a).takesNoWrite = true := by
  by_cases hlow : a.toNat < 40
  · have ha : a = BitVec.ofNat 16 a.toNat := (half_eq_iff a a.toNat a.isLt).2 rfl
    rw [ha] at h ⊢
    exact takesNoWrite_below ⟨a.toNat, hlow⟩ h
  · have hslot : ¬ (0x0200 ≤ a.toNat ∧ a.toNat ≤ 0x02FF) := by
      simp only [lapWritable, Bool.or_eq_false_iff, Bool.and_eq_false_iff, decide_eq_false_iff_not] at h
      omega
    rw [lapWordAt_of_ge (Nat.not_lt.1 hlow), if_neg hslot]
    split <;> rfl

theorem execLapReadOnlyWrite_eq {a : Half} (h : (lapWordAt a).takesNoWrite = true) (v : Word) (s : State) :
    execLapReadOnlyWrite a v s = onDevice (lapWrite a Device.setAccessFault) s := by
  rw [execLapReadOnlyWrite]
  cases hw : lapWordAt a with
  | localIdent | localStatus | noticeTake | latchWord i | bufData w | unmapped => rfl
  | localCause | localEnable | localReset | freeReturn | slotHandover | slotRecall | bufSelect
  | slotSelect | slotHeader k sec | slotData w =>
    rw [hw] at h
    cases h

theorem continues_write_iff (next a : Half) : continues .write next a = true ↔ next = a := by
  simp [continues]

theorem continues_read_iff (next a : Half) : continues .read next a = true ↔ next = a
    ∨ (a = 0x0008 ∧ (next.toNat ≤ 0x0008 ∨ 0x0200 ≤ next.toNat))
    ∨ (a = 0x0100 ∧ 0x0009 ≤ next.toNat ∧ next.toNat ≤ 0x0100) := by
  have height : a = 0x0008 ↔ a.toNat = 0x0008 := half_eq_iff a 8 (by decide)
  have hdata : a = 0x0100 ↔ a.toNat = 0x0100 := half_eq_iff a 256 (by decide)
  rw [height, hdata, ← BitVec.toNat_inj]
  simp [continues, readReaches, or_assoc, and_assoc]

/-! ## A LAP that takes no word -/

theorem Device.lapHeld_iff (d : Device) :
    d.lapHeld = true ↔ d.pins.resetLow = true ∨ d.pins.lrstLow = true := by
  rw [Device.lapHeld, Bool.or_eq_true]

/-- R171, R184: the LAP is held, the transaction is ignored, or LCS is low with none open (log 2). -/
def Device.LapShut (d : Device) : Prop :=
  d.lapHeld = true ∨ d.lap.context = .ignored ∨ d.lap.context = .idle ∧ d.pins.lcsLow = true

theorem Device.LapShut.word {d : Device} (h : d.LapShut) (c : LapCommand) (a : Half)
    (f : Device → Device) : lapWord c a f d = d := by
  rcases h with h | h
  · rw [lapWord, if_pos h]
  · exact lapWord_shut h

theorem Device.LapShut.badCommand {d : Device} (h : d.LapShut) (code : Byte) :
    badCommand code d = d := by
  rcases h with h | h | ⟨h, hlcs⟩
  · rw [Machine.badCommand, h, Bool.true_or, Bool.true_or, if_pos rfl]
  · rw [Machine.badCommand, h]
    exact ite_self d
  · rw [Machine.badCommand, h, hlcs]
    exact ite_self d

theorem Device.LapShut.localReset {d : Device} (h : d.LapShut) : writeLocalReset d = d := by
  rcases h with h | h | ⟨h, hlcs⟩
  · rw [writeLocalReset, if_pos h]
  · rw [writeLocalReset, h]
    exact ite_self d
  · rw [writeLocalReset, h, hlcs]
    exact ite_self d

/-- The commands that are words of a transaction, or refuse one. -/
def lapWords (v : Word) (address : Half) (word code : Byte) (slot : SlotId) (second : Bool) :
    List Instr :=
  [.localReset v, .localCauseWrite v, .localEnableWrite v, .noticeTake, .freeReturn v
  , .bufSelectWrite v, .bufDataRead word, .slotHeaderWrite slot second v, .slotSelectWrite v
  , .slotDataWrite word v, .slotHandover v, .slotRecall v, .lapBadCommand code
  , .lapReadOnlyWrite address v]

theorem Device.LapShut.words {s : State} (h : s.dev.LapShut) (v : Word) (address : Half)
    (word code : Byte) (slot : SlotId) (second : Bool) :
    ∀ i ∈ lapWords v address word code slot second, exec i s = .next s := by
  have hsame : ∀ f : Device → Device, f s.dev = s.dev → onDevice f s = .next s := fun f hf => by
    rw [onDevice, hf]
  have hwrite : ∀ a f, onDevice (lapWrite a f) s = .next s := fun a f => hsame _ (h.word _ _ _)
  have hread : ∀ a, onDevice (lapReadAt a) s = .next s := fun a => hsame _ (h.word _ _ _)
  have hreadOnly : execLapReadOnlyWrite address v s = .next s := by
    cases hw : (lapWordAt address).takesNoWrite with
    | true => rw [execLapReadOnlyWrite_eq hw, hwrite]
    | false =>
      rw [execLapReadOnlyWrite]
      cases hword : lapWordAt address with
      | localIdent | localStatus | noticeTake | latchWord i | bufData w | unmapped =>
        rw [hword] at hw
        cases hw
      | localCause | localEnable | localReset | freeReturn | slotHandover | slotRecall | bufSelect
      | slotSelect | slotHeader k sec | slotData w => rfl
  simp only [lapWords, List.forall_mem_cons]
  exact ⟨hsame _ h.localReset, hwrite _ _, hwrite _ _, hread _, hwrite _ _, hwrite _ _, hread _,
    hwrite _ _, hwrite _ _, hwrite _ _, hwrite _ _, hwrite _ _, hsame _ (h.badCommand code), hreadOnly,
    List.forall_mem_nil _⟩

/-! ## The frame of a transaction -/

theorem transaction_of_held {s : State} (h : s.dev.lapHeld = true) :
    exec .transactionBegin s = s.nextWith ({ s.dev with pins := { s.dev.pins with lcsLow := true } })
      ∧ exec .transactionEnd s =
        s.nextWith ({ s.dev with pins := { s.dev.pins with lcsLow := false } }) := by
  have hbegin : beginTransaction s.dev = { s.dev with pins := { s.dev.pins with lcsLow := true } } := by
    rw [beginTransaction]
    split
    case isTrue hlcs => rw [← hlcs]
    case isFalse => exact if_pos h
  have hend : endTransaction s.dev = { s.dev with pins := { s.dev.pins with lcsLow := false } } :=
    if_pos h
  exact ⟨congrArg s.nextWith hbegin, congrArg s.nextWith hend⟩

theorem transaction_of_free {s : State} (h : s.dev.lapHeld = false) :
    (s.dev.pins.lcsLow = false → exec .transactionBegin s = s.nextWith
        ({ s.dev with
          pins := { s.dev.pins with lcsLow := true }
          lap := { s.dev.lap with context := .opened, ldo := 0 } }))
      ∧ (s.dev.pins.lcsLow = true → exec .transactionBegin s = .next s)
      ∧ exec .transactionEnd s = s.nextWith
        ({ s.dev with
          pins := { s.dev.pins with lcsLow := false }
          lap := { s.dev.lap with context := .idle } }) := by
  have hfree : ¬ s.dev.lapHeld = true := by rw [h]; decide
  refine ⟨fun hlcs => congrArg s.nextWith ?_, fun hlcs => congrArg s.nextWith ?_,
    congrArg s.nextWith (if_neg hfree)⟩
  · rw [beginTransaction, if_neg (by rw [hlcs]; decide)]
    exact if_neg hfree
  · rw [beginTransaction, if_pos hlcs]

/-- R171: an unknown command byte, at the opening of a transaction or alone. -/
theorem badCommand_of_free {s : State} (h : s.dev.lapHeld = false) {code : Byte} (h1 : code ≠ 0x01)
    (h2 : code ≠ 0x02) :
    (s.dev.lap.context = .opened → exec (.lapBadCommand code) s = s.nextWith
        ({ s.dev with lap :=
            { s.dev.lap with accessFault := true, context := .ignored, ldo := 0 } }))
      ∧ (s.dev.lap.context = .idle → s.dev.pins.lcsLow = false →
        exec (.lapBadCommand code) s = s.nextWith
          ({ s.dev with lap := { s.dev.lap with accessFault := true, ldo := 0 } })) := by
  have hbad : ¬ (s.dev.lapHeld || code == 0x01#8 || code == 0x02#8) = true := by
    rw [h, Bool.false_or, Bool.or_eq_true, beq_iff_eq, beq_iff_eq]
    rintro (hread | hwrite)
    · exact h1 hread
    · exact h2 hwrite
  refine ⟨fun hopen => congrArg s.nextWith ?_, fun hidle hlcs => congrArg s.nextWith ?_⟩
  · rw [badCommand, if_neg hbad, hopen]
    rfl
  · rw [badCommand, if_neg hbad, hidle, hlcs]
    rfl

theorem readOnlyWrite_due {s : State} {a : Half} {v : Word}
    (hw : Instr.WellFormed (.lapReadOnlyWrite a v)) (hdue : s.dev.WordDue .write a) :
    exec (.lapReadOnlyWrite a v) s = s.nextWith (s.dev.wordDone s.dev.setAccessFault .write a 0) := by
  have hplace : lapWritable a = false := by simpa [Instr.WellFormed, Instr.wellFormed] using hw
  have hexec : exec (.lapReadOnlyWrite a v) s = onDevice (lapWrite a Device.setAccessFault) s :=
    execLapReadOnlyWrite_eq (takesNoWrite_of_not_writable hplace) v s
  rw [hexec]
  exact exec_lapWrite_due hdue rfl

/-- Settles O43, by whether the LAP is held, shut or open. -/
theorem transactionsFramedAndRefused : Obligations.TransactionsFramedAndRefused := by
  refine ⟨Device.lapHeld_iff, fun d => rfl, readOnlyWrite_wellFormed_iff, fun next a =>
    ⟨continues_write_iff next a, continues_read_iff next a⟩, fun s h => ?_, fun s h => ?_⟩
  · obtain ⟨hbegin, hend⟩ := transaction_of_held h
    exact ⟨hbegin, hend, Device.LapShut.words (.inl h)⟩
  · obtain ⟨hopen, hstay, hend⟩ := transaction_of_free h
    exact ⟨hopen, hstay, hend, fun code h1 h2 => badCommand_of_free h h1 h2,
      fun hshut => ⟨Device.LapShut.word (.inr hshut), Device.LapShut.words (.inr hshut)⟩,
      fun a v hw hdue => readOnlyWrite_due hw hdue⟩

end Sys2Proof.Machine

/-! SUPPORT. The words of the LAP (R108 to R118, R174 to R183): causes and enables, the two windows, the
handover and the recall of a slot. -/

namespace Sys2Proof.Machine

/-! ## Causes and enables (R174 to R177) -/

theorem causes_bits (d : Device) :
    d.causes.getLsbD 0 = d.noticeCause ∧ d.causes.getLsbD 1 = d.lap.launchDone
      ∧ d.causes.getLsbD 2 = d.lap.starvation ∧ d.causes.getLsbD 3 = d.lap.accessFault
      ∧ d.causes.getLsbD 4 = d.lap.nodeChanged := by
  simp only [Device.causes, bit, BitVec.getLsbD_append]
  simp

/-- Five bits meet just when they meet in one of the five places. -/
theorem and_ne_zero_iff (c e : BitVec 5) : c &&& e ≠ 0 ↔
    ((c.getLsbD 0 = true ∧ e.getLsbD 0 = true) ∨ (c.getLsbD 1 = true ∧ e.getLsbD 1 = true)
      ∨ (c.getLsbD 2 = true ∧ e.getLsbD 2 = true) ∨ (c.getLsbD 3 = true ∧ e.getLsbD 3 = true)
      ∨ (c.getLsbD 4 = true ∧ e.getLsbD 4 = true)) := by
  revert c e
  decide

theorem noticeCause_iff (d : Device) : d.noticeCause = true ↔ d.capture.delivery ≠ [] := by
  simp [Device.noticeCause]

theorem latt_iff (d : Device) : d.latt = true ↔
    ((d.capture.delivery ≠ [] ∧ d.lap.enables.getLsbD 0 = true)
      ∨ (d.lap.launchDone = true ∧ d.lap.enables.getLsbD 1 = true)
      ∨ (d.lap.starvation = true ∧ d.lap.enables.getLsbD 2 = true)
      ∨ (d.lap.accessFault = true ∧ d.lap.enables.getLsbD 3 = true)
      ∨ (d.lap.nodeChanged = true ∧ d.lap.enables.getLsbD 4 = true)) := by
  obtain ⟨h0, h1, h2, h3, h4⟩ := causes_bits d
  rw [Device.latt, decide_eq_true_eq, and_ne_zero_iff, h0, h1, h2, h3, h4, noticeCause_iff]

theorem lapRead_localCause (d : Device) : lapRead .localCause d =
    ((0 : BitVec 27) ++ BitVec.ofBool d.lap.nodeChanged ++ BitVec.ofBool d.lap.accessFault
      ++ BitVec.ofBool d.lap.starvation ++ BitVec.ofBool d.lap.launchDone
      ++ BitVec.ofBool (!d.capture.delivery.isEmpty), d) := by
  refine Prod.ext ?_ rfl
  apply BitVec.eq_of_getLsbD_eq
  intro i hi
  simp only [lapRead, Device.causes, Device.noticeCause, bit, BitVec.getLsbD_setWidth,
    BitVec.getLsbD_append]
  interval_cases i <;> simp

theorem lapRead_localEnable (d : Device) :
    lapRead .localEnable d = ((0 : BitVec 27) ++ d.lap.enables, d) := by
  refine Prod.ext ?_ rfl
  apply BitVec.eq_of_getLsbD_eq
  intro i hi
  simp only [lapRead, BitVec.getLsbD_setWidth, BitVec.getLsbD_append]
  interval_cases i <;> simp

theorem lapRead_localStatus (d : Device) : lapRead .localStatus d =
    ((0 : BitVec 2) ++ BitVec.ofNat 6 d.capture.delivery.length
      ++ (0 : BitVec 2) ++ BitVec.ofNat 6 d.capture.free.length
      ++ (0 : BitVec 4) ++ (d.port .b).link.code ++ (d.port .a).link.code ++ (0 : BitVec 2)
      ++ d.agent.node, d) := by
  refine Prod.ext ?_ rfl
  show localStatus d = _
  apply BitVec.eq_of_getLsbD_eq
  intro i hi
  simp only [localStatus, BitVec.getLsbD_or, getLsbD_place, BitVec.getLsbD_append]
  interval_cases i <;> simp [Device.port, PerPort.get]

/-- Settles O44, bit by bit. -/
theorem localCausesAndEnables : Obligations.LocalCausesAndEnables := by
  refine ⟨fun d => ⟨rfl, rfl, rfl⟩, fun s v hdue => exec_lapWrite_due hdue rfl, fun s v hdue =>
    ⟨v.extractLsb' 0 5, fun i hi => ?_, exec_lapWrite_due hdue rfl⟩, latt_iff, fun d =>
    ⟨lapRead_localCause d, lapRead_localEnable d, lapRead_localStatus d⟩⟩
  simp [hi]

/-! ## The buffer window (R179) -/

theorem bufDataAddress_eq (i : Byte) : bufDataAddress i = 0x0100 + i.setWidth 16 := by
  have hi := i.isLt
  apply BitVec.eq_of_toNat_eq
  rw [bufDataAddress, BitVec.toNat_ofNat, BitVec.toNat_add, BitVec.toNat_setWidth]
  simp only [BitVec.ofNat_eq_ofNat, BitVec.toNat_ofNat]
  omega

theorem slotDataAddress_eq (i : Byte) : slotDataAddress i = 0x0200 + i.setWidth 16 := by
  have hi := i.isLt
  apply BitVec.eq_of_toNat_eq
  rw [slotDataAddress, BitVec.toNat_ofNat, BitVec.toNat_add, BitVec.toNat_setWidth]
  simp only [BitVec.ofNat_eq_ofNat, BitVec.toNat_ofNat]
  omega

theorem lapWordAt_bufData (i : Byte) : lapWordAt (bufDataAddress i) = .bufData i := by
  have hi := i.isLt
  have hn : (bufDataAddress i).toNat = 0x0100 + i.toNat := by
    rw [bufDataAddress, BitVec.toNat_ofNat]
    omega
  rw [lapWordAt_of_ge (by omega), if_pos (by omega), hn]
  congr 1
  apply BitVec.eq_of_toNat_eq
  rw [BitVec.toNat_ofNat]
  omega

theorem selectBuffer_of_number {v : Word} {b : Fin 32} (h : v.toNat = b.val) (d : Device) :
    selectBuffer v d = { d with lap := { d.lap with bufSelect := b } } := by
  obtain ⟨b, hb⟩ := b
  subst h
  rw [selectBuffer, dif_pos hb]
  rfl

theorem selectBuffer_of_ge {v : Word} (h : 32 ≤ v.toNat) (d : Device) :
    selectBuffer v d = d.setAccessFault := by
  rw [selectBuffer, dif_neg (Nat.not_lt.2 h)]

/-- A write whose effect is known. -/
theorem exec_lapWrite_eq {s : State} {a : Half} {f : Device → Device} {e : Device}
    (h : s.dev.WordDue .write a) (he : f s.dev = e) (hc : e.lap.context = s.dev.lap.context) :
    onDevice (lapWrite a f) s = s.nextWith (s.dev.wordDone e .write a 0) := by
  subst he
  exact exec_lapWrite_due h hc

theorem exec_bufDataRead_due {s : State} {i : Byte} (h : s.dev.WordDue .read (bufDataAddress i)) :
    exec (.bufDataRead i) s = s.nextWith (s.dev.wordDone (readBufData i s.dev).2 .read (bufDataAddress i)
      (readBufData i s.dev).1) := by
  have hread : lapRead (lapWordAt (bufDataAddress i)) s.dev = readBufData i s.dev := by
    rw [lapWordAt_bufData]
    rfl
  have hcontext : (readBufData i s.dev).2.lap.context = s.dev.lap.context := by
    unfold readBufData
    split <;> rfl
  show onDevice (lapReadAt (bufDataAddress i)) s = _
  rw [onDevice, lapReadAt_due h (by rw [hread]; exact hcontext), hread, State.nextWith]

/-- Settles O45, by the number selected and the state of the buffer. -/
theorem bufferWindow : Obligations.BufferWindow := by
  refine ⟨bufDataAddress_eq, fun m a => rfl, fun s => ⟨fun v hdue => ⟨fun b hb =>
    exec_lapWrite_eq hdue (selectBuffer_of_number hb s.dev) rfl, fun hge =>
    exec_lapWrite_eq hdue (selectBuffer_of_ge hge s.dev) rfl⟩, fun i hdue => ?_⟩⟩
  rw [exec_bufDataRead_due hdue, readBufData]
  refine ⟨fun htaken => ?_, fun hother => ?_⟩
  · rw [if_pos htaken]
    rfl
  · rw [if_neg hother]

/-! ## The slot window (R108, R181, R182) -/

theorem slotHeaderValue_second (x : Slot) : slotHeaderValue x true =
    (0 : BitVec 13) ++ x.status.code ++ (0 : BitVec 6) ++ x.owner.code ++ (0 : BitVec 6)
      ++ x.seqMode.code := by
  apply BitVec.eq_of_getLsbD_eq
  intro i hi
  simp only [slotHeaderValue, if_true, BitVec.getLsbD_or, getLsbD_place, BitVec.getLsbD_append]
  interval_cases i <;> simp

theorem slotHeaderValue_first (x : Slot) : slotHeaderValue x false = x.label ++ x.length := by
  apply BitVec.eq_of_getLsbD_eq
  intro i hi
  simp only [slotHeaderValue, Bool.false_eq_true, if_false, BitVec.getLsbD_or, getLsbD_place,
    BitVec.getLsbD_append]
  interval_cases i <;> simp

theorem lapRead_slotWords (d : Device) (k : SlotId) (i : Byte) :
    lapRead .slotSelect d = (BitVec.ofNat 32 (slotNumber d.lap.slotSelect), d)
      ∧ lapRead (.slotHeader k false) d = ((d.slot k).label ++ (d.slot k).length, d)
      ∧ lapRead (.slotHeader k true) d =
        ((0 : BitVec 13) ++ (d.slot k).status.code ++ (0 : BitVec 6) ++ (d.slot k).owner.code
          ++ (0 : BitVec 6) ++ (d.slot k).seqMode.code, d)
      ∧ lapRead (.slotData i) d =
        (memoryWord d.launch.mem (1024 * slotNumber d.lap.slotSelect + 4 * i.toNat), d) :=
  ⟨rfl, Prod.ext (slotHeaderValue_first _) rfl, Prod.ext (slotHeaderValue_second _) rfl, rfl⟩

theorem slotHeaderAddress_toNat (k : SlotId) :
    (slotHeaderAddress k false).toNat = 0x0020 + 2 * slotNumber k
      ∧ (slotHeaderAddress k true).toNat = 0x0021 + 2 * slotNumber k := by
  obtain ⟨p, k⟩ := k
  cases p
  · cases k
    · exact ⟨rfl, rfl⟩
    · exact ⟨rfl, rfl⟩
  · cases k
    · exact ⟨rfl, rfl⟩
    · exact ⟨rfl, rfl⟩

/-- Section 13.6: the four numbers name the four slots, and no other number names one. -/
theorem slotOf_of_number {v : Word} {k : SlotId} (h : v.toNat = slotNumber k) : slotOf v = some k := by
  rw [slotOf, h]
  obtain ⟨p, k⟩ := k
  cases p
  · cases k
    · rfl
    · rfl
  · cases k
    · rfl
    · rfl

theorem slotOf_of_ge {v : Word} (h : 4 ≤ v.toNat) : slotOf v = none := by
  unfold slotOf
  generalize v.toNat = n at h
  split
  case h_5 => rfl
  all_goals omega

theorem writeSlotHeader_of_local {d : Device} {k : SlotId} (h : (d.slot k).owner = .free)
    (second : Bool) (v : Word) : writeSlotHeader k second v d = d.onSlot k fun x =>
      if second then { x with seqMode := seqModeOf v }
      else { x with label := v.extractLsb' 16 16, length := v.extractLsb' 0 16 } := by
  rw [writeSlotHeader, if_pos h]

theorem writeSlotHeader_of_other {d : Device} {k : SlotId} (h : (d.slot k).owner ≠ .free)
    (second : Bool) (v : Word) : writeSlotHeader k second v d = d.setAccessFault := by
  rw [writeSlotHeader, if_neg h]

theorem writeSlotData_of_local {d : Device} (h : (d.slot d.lap.slotSelect).owner = .free) (i : Byte)
    (v : Word) : writeSlotData i v d = { d with launch := { d.launch with
      mem := Memory.writeBytes d.launch.mem (slotBase d.lap.slotSelect + 4 * i.toNat)
        (wordBytes v) } } := by
  rw [writeSlotData]
  exact if_pos h

theorem writeSlotData_of_other {d : Device} (h : (d.slot d.lap.slotSelect).owner ≠ .free) (i : Byte)
    (v : Word) : writeSlotData i v d = d.setAccessFault := by
  rw [writeSlotData]
  exact if_neg h

/-- A word written is read back, and no other byte changes. -/
theorem memoryWord_written {m : List Host.Cell} (h : Memory.wf m) (first : Nat) (v : Word) :
    memoryWord (Memory.writeBytes m first (wordBytes v)) first = v
      ∧ ∀ a, (a < first ∨ first + 4 ≤ a) →
        Memory.read (Memory.writeBytes m first (wordBytes v)) a = Memory.read m a := by
  obtain ⟨b3, b2, b1, b0, hbytes, hword⟩ := wordBytes_exists v
  rw [hbytes]
  refine ⟨?_, fun a ha => ?_⟩
  · have hread : ∀ j (hj : j < 4),
        Memory.read (Memory.writeBytes m first [b3, b2, b1, b0]) (first + j) = [b3, b2, b1, b0][j] :=
      fun j hj => by
        rw [Memory.read_writeBytes h, dif_pos ⟨by omega, by simpa using hj⟩]
        simp
    rw [memoryWord, hread 1 (by decide), hread 2 (by decide), hread 3 (by decide)]
    exact (congrArg (fun x => wordOf x b2 b1 b0) (hread 0 (by decide))).trans hword
  · rw [Memory.read_writeBytes h, dif_neg]
    rintro ⟨hlow, hhigh⟩
    have hlen : [b3, b2, b1, b0].length = 4 := rfl
    omega

/-- Settles O46, by the owner of the slot. -/
theorem slotWindow : Obligations.SlotWindow := by
  refine ⟨lapRead_slotWords, ⟨rfl, rfl, rfl, rfl⟩, slotHeaderAddress_toNat, slotDataAddress_eq,
    fun m a => rfl, fun s v => ⟨fun hdue => ⟨fun k hk => ?_, fun hge => ?_⟩, fun k second hdue =>
      ⟨fun howner => ?_, fun howner hsecond => ?_, fun howner hsecond => ?_⟩, fun i hdue =>
      ⟨fun howner => ?_, fun howner => ?_, fun hwf => memoryWord_written hwf _ v⟩⟩⟩
  · refine exec_lapWrite_eq hdue ?_ rfl
    rw [selectSlot, slotOf_of_number hk]
    rfl
  · refine exec_lapWrite_eq hdue ?_ rfl
    rw [selectSlot, slotOf_of_ge hge]
  · exact exec_lapWrite_eq hdue (writeSlotHeader_of_other howner second v) rfl
  · subst hsecond
    exact exec_lapWrite_eq hdue (writeSlotHeader_of_local howner false v) rfl
  · subst hsecond
    exact exec_lapWrite_eq hdue (writeSlotHeader_of_local howner true v) rfl
  · exact exec_lapWrite_eq hdue (writeSlotData_of_other howner i v) rfl
  · exact exec_lapWrite_eq hdue (writeSlotData_of_local howner i v) rfl

/-! ## Handover and recall (R109 to R113, R116, R118) -/

theorem slotHandover_of_ge {v : Word} (h : 4 ≤ v.toNat) (d : Device) :
    slotHandover v d = d.setAccessFault := by
  rw [slotHandover, slotOf_of_ge h]

/-- R109, R110: the owner, then the length, decide. -/
theorem slotHandover_of_number {v : Word} {k : SlotId} (h : v.toNat = slotNumber k) (d : Device) :
    ((d.slot k).owner ≠ .free → slotHandover v d = d.setAccessFault)
      ∧ ((d.slot k).owner = .free → 1024 < (d.slot k).length.toNat → slotHandover v d =
        (d.onSlot k fun x => { x with status := .badLength }).setLaunchDone)
      ∧ ((d.slot k).owner = .free → (d.slot k).length.toNat ≤ 1024 → slotHandover v d =
        arbitrate (dealSlots k.port
          (d.onSlot k fun x => { x with status := .none, owner := .waiting, offered := none }))) := by
  rw [slotHandover, slotOf_of_number h]
  dsimp only
  refine ⟨fun howner => if_neg howner, fun howner hlen => ?_, fun howner hlen => ?_⟩
  · rw [if_pos howner, handOver, if_pos hlen]
  · rw [if_pos howner, handOver, if_neg (Nat.not_lt.2 hlen)]

theorem slotRecall_of_ge {v : Word} (h : 4 ≤ v.toNat) (d : Device) :
    slotRecall v d = d.setAccessFault := by
  rw [slotRecall, slotOf_of_ge h]

theorem slotRecall_of_number {v : Word} {k : SlotId} (h : v.toNat = slotNumber k) (d : Device) :
    ((d.slot k).owner = .waiting → slotRecall v d =
        (d.onSlot k fun x =>
          { x with owner := .free, status := .recalled, offered := none }).setLaunchDone)
      ∧ ((d.slot k).owner ≠ .waiting → slotRecall v d = d) := by
  rw [slotRecall, slotOf_of_number h]
  exact ⟨fun howner => if_pos howner, fun howner => if_neg howner⟩

/-- A slot that is not a waiting one without an offer is left alone (R112). -/
theorem dealNext_of_settled {p : PortId} {d : Device}
    (h : (d.slot ⟨p, d.nextParity p⟩).owner ≠ .waiting
      ∨ (d.slot ⟨p, d.nextParity p⟩).offered ≠ none) : dealNext p d = d := by
  rw [dealNext]
  refine if_neg ?_
  rintro ⟨howner, hoffered⟩
  exact h.elim (fun h => h howner) fun h => h hoffered

/-- R112, R113, R116: a waiting slot, by the link of its port and the node number. -/
theorem dealNext_of_waiting {p : PortId} {d : Device}
    (howner : (d.slot ⟨p, d.nextParity p⟩).owner = .waiting)
    (hoffered : (d.slot ⟨p, d.nextParity p⟩).offered = none) :
    ((d.port p).link ≠ .online → dealNext p d = completeSlot p (d.nextParity p) .linkDown d)
      ∧ ((d.port p).link = .online → d.agent.node = 0 →
        dealNext p d = completeSlot p (d.nextParity p) .unnumbered d)
      ∧ ((d.port p).link = .online → d.agent.node ≠ 0 →
        dealNext p d = offerSlot p (d.nextParity p) d) := by
  have hdeal : dealNext p d =
      if !(d.port p).online then completeSlot p (d.nextParity p) .linkDown d
      else if d.agent.node = 0 then completeSlot p (d.nextParity p) .unnumbered d
      else offerSlot p (d.nextParity p) d := by
    rw [dealNext]
    exact if_pos ⟨howner, hoffered⟩
  have hup : (d.port p).link = .online → ¬ (!(d.port p).online) = true := fun hlink => by
    rw [(Port.online_eq_true_iff _).2 hlink]
    decide
  rw [hdeal]
  refine ⟨fun hlink => if_pos ?_, fun hlink hnode => ?_, fun hlink hnode => ?_⟩
  · simp [Port.online, hlink]
  · rw [if_neg (hup hlink), if_pos hnode]
  · rw [if_neg (hup hlink), if_neg hnode]

theorem completeSlot_lap_context (p : PortId) (k : Parity) (st : SlotStatus) (d : Device) :
    (completeSlot p k st d).lap.context = d.lap.context := by
  unfold completeSlot
  dsimp only
  split <;> rfl

theorem dealNext_lap_context (p : PortId) (d : Device) :
    (dealNext p d).lap.context = d.lap.context := by
  by_cases h : (d.slot ⟨p, d.nextParity p⟩).owner = .waiting
      ∧ (d.slot ⟨p, d.nextParity p⟩).offered = none
  · obtain ⟨hdown, hunnumbered, hoffer⟩ := dealNext_of_waiting h.1 h.2
    by_cases hlink : (d.port p).link = .online
    · by_cases hnode : d.agent.node = 0
      · rw [hunnumbered hlink hnode, completeSlot_lap_context]
      · rw [hoffer hlink hnode]
        rfl
    · rw [hdown hlink, completeSlot_lap_context]
  · rw [dealNext_of_settled (not_and_or.1 h)]

theorem dealSlots_lap_context (p : PortId) (d : Device) :
    (dealSlots p d).lap.context = d.lap.context := by
  rw [dealSlots, dealNext_lap_context, dealNext_lap_context]

/-- Settles O47, by the slot handed over and the NEXT slot. -/
theorem handoverOffersOrRefuses : Obligations.HandoverOffersOrRefuses := by
  refine ⟨⟨rfl, rfl⟩, fun d => ⟨rfl, rfl, rfl⟩, fun s v hdue => ⟨fun hge =>
      exec_lapWrite_eq hdue (slotHandover_of_ge hge s.dev) rfl, fun k hk => ?_⟩,
    fun p d => ⟨rfl, dealNext_of_settled, fun howner hoffered => ?_⟩⟩
  · obtain ⟨hfault, hlong, htaken⟩ := slotHandover_of_number hk s.dev
    refine ⟨fun howner => exec_lapWrite_eq hdue (hfault howner) rfl, fun howner hlen =>
      exec_lapWrite_eq hdue (hlong howner hlen) rfl, fun howner hlen =>
      exec_lapWrite_eq hdue (htaken howner hlen) ?_⟩
    rw [arbitrate_lap, dealSlots_lap_context]
    rfl
  · obtain ⟨hdown, hunnumbered, hoffer⟩ := dealNext_of_waiting howner hoffered
    refine ⟨fun hlink => ?_, fun hlink hnode => ?_, fun hlink hnode => ?_⟩
    · rw [hdown hlink]
      exact completeSlot_completes p (d.nextParity p) d (.inr (.inl rfl))
    · rw [hunnumbered hlink hnode]
      exact completeSlot_completes p (d.nextParity p) d (.inr (.inr rfl))
    · rw [hoffer hlink hnode]
      rfl

/-- Settles O48, by the owner of the slot. -/
theorem recallTakesBack : Obligations.RecallTakesBack := by
  intro s v hdue
  refine ⟨fun hge => exec_lapWrite_eq hdue (slotRecall_of_ge hge s.dev) rfl, fun k hk => ?_⟩
  obtain ⟨hrecalled, hkept⟩ := slotRecall_of_number hk s.dev
  exact ⟨fun howner => exec_lapWrite_eq hdue (hrecalled howner) rfl,
    fun howner => exec_lapWrite_eq hdue (hkept howner) rfl⟩

end Sys2Proof.Machine
